-- ==== Sys2Proof/Word.lean ====
section
/-!
DEFINITION. The word types of the ports, one abbreviation for each width the spec fixes (rules R6, R24, R25).
Every value is an unsigned bit vector; bit 0 is the least significant bit (rule R7). No value is signed.
-/
namespace Sys2Proof

/-- One byte of an encoded sequence: "each byte a value 0–255" (rule R6, `PACK_WIDTH`). -/
abbrev Byte := BitVec 8

/-- A value of `enc_cp` or `dec_cp`: `CP_IN_WIDTH` = `CP_OUT_WIDTH` = 32 bits (rule R6). -/
abbrev CodePoint := BitVec 32

/-- A value of `enc_out` or `dec_in`: `PACK_WIDTH` = 48 bits, a packed big-endian integer (rules R6, R43). -/
abbrev Packed := BitVec 48

/-- A value of `enc_len` or `dec_len`: `LEN_WIDTH` = 3 bits (rule R6). -/
abbrev Len := BitVec 3

/-- A value of `enc_status` or `dec_status`: `STATUS_WIDTH` = 2 bits (rule R6). -/
abbrev Status := BitVec 2

end Sys2Proof
end

