-- ==== Sys2Proof/Config.lean ====
section
/-!
DEFINITION. The implementation parameters of rule R6: the ones the spec fixes, and the one build parameter.
The block has no other parameter (rule R6), and no value of it is left open to a free value.
-/
namespace Sys2Proof

/-- The build of the block. It is chosen when the block is built and never changes afterwards
(rules R6, R23, R232). It is a parameter and no register: no operation reads it from, or writes it to, a port. -/
structure Config where
  /-- `DEC_STRICT_CONT`: `false` decodes by packed range alone, `true` also checks every continuation byte
  (rules R6, R148). -/
  decStrictCont : Bool
  deriving DecidableEq, Repr

/-- The reference build: "Its reference value is `false`" (rule R3). -/
def Config.reference : Config := { decStrictCont := false }

/-- The other build of rule R6: the strictness upgrade. -/
def Config.strictBuild : Config := { decStrictCont := true }

/-- `N_TIERS` (rule R6). -/
abbrev Config.nTiers : Nat := 6

/-- `CP_MAX`, the largest code point that can be encoded (rule R6). -/
abbrev Config.cpMax : CodePoint := 0x7FFFFFFF#32

/-- The bytes of the widest packed pattern: `PACK_WIDTH` = 6 bytes × 8 bits (rule R6). -/
abbrev Config.packBytesMax : Nat := 6

end Sys2Proof
end

