-- ==== Sys2Proof/Syntax.lean ====
section
/-!
DEFINITION. The syntax: the six tiers, what a host presents at the input ports, and the fourteen cases.
The cases are "the 'instructions' of this spec" (rule R60): one constructor for each row of spec/opcode_table.json.
-/
namespace Sys2Proof

/-- "one of six fixed byte-length bands" (rules R3, R6, R65). Tier n has byte length n. -/
inductive Tier where
  | t1 | t2 | t3 | t4 | t5 | t6
  deriving DecidableEq, Repr

/-- One presentation of the host: which input ports it drives, and with what (rules R60, R81, R211). -/
inductive Presentation where
  /-- `ENC <cp>`: drive `enc_cp`. -/
  | enc (cp : CodePoint)
  /-- `DEC <P>`: drive `dec_in`. -/
  | dec (p : Packed)
  /-- Both input ports driven at once: "Both channels may be evaluated at the same time" (rule R27). -/
  | both (cp : CodePoint) (p : Packed)
  deriving DecidableEq, Repr

/-- The cases of the two operations (rules R101 to R107 and R141 to R147), each with the value on its channel's input
port, which is its one operand. -/
inductive Instr where
  /-- ENC.T1, rule R101. -/
  | encT1 (cp : CodePoint)
  /-- ENC.T2, rule R102. -/
  | encT2 (cp : CodePoint)
  /-- ENC.T3, rule R103. -/
  | encT3 (cp : CodePoint)
  /-- ENC.T4, rule R104. -/
  | encT4 (cp : CodePoint)
  /-- ENC.T5, rule R105 (a legacy tier, in scope by rule R3). -/
  | encT5 (cp : CodePoint)
  /-- ENC.T6, rule R106 (a legacy tier, in scope by rule R3). -/
  | encT6 (cp : CodePoint)
  /-- ENC.ERR, rule R107. -/
  | encErr (cp : CodePoint)
  /-- DEC.T1, rule R141. -/
  | decT1 (p : Packed)
  /-- DEC.T2, rule R142. -/
  | decT2 (p : Packed)
  /-- DEC.T3, rule R143. -/
  | decT3 (p : Packed)
  /-- DEC.T4, rule R144. -/
  | decT4 (p : Packed)
  /-- DEC.T5, rule R145 (a legacy tier, in scope by rule R3). -/
  | decT5 (p : Packed)
  /-- DEC.T6, rule R146 (a legacy tier, in scope by rule R3). -/
  | decT6 (p : Packed)
  /-- DEC.ERR, rule R147. -/
  | decErr (p : Packed)
  deriving DecidableEq, Repr

/-- Why `DECB` does not expand: rule R81 gives it 1 to 6 bytes. Raised by `Sys2Proof.decb` only, in the host's own
packing, before the block sees a value: safe, since nothing is presented. -/
inductive DecbError where
  /-- `DECB` with no byte. -/
  | noBytes
  /-- `DECB` with more than 6 bytes. -/
  | tooManyBytes
  deriving DecidableEq, Repr

end Sys2Proof
end

