-- ==== Sys2Proof/Machine/Tiers.lean ====
section
/-!
DEFINITION. The shared tier table (rule R65), the mask tables the spec derives from it (rules R67, R71, R73), the
bytes of a packed value (rule R10) and the range tests. The decoder of cases and both channels read this one table
(rule R1: "a shared range table").
-/
namespace Sys2Proof

/-- The tiers in the order of the table of rule R65. -/
def Tier.all : List Tier := [.t1, .t2, .t3, .t4, .t5, .t6]

/-- Column "bytes" of rule R65: the tier number, which is the sequence length. -/
def Tier.bytes : Tier → Nat
  | .t1 => 1 | .t2 => 2 | .t3 => 3 | .t4 => 4 | .t5 => 5 | .t6 => 6

/-- Column ENC_LO of rule R65. -/
def Tier.encLo : Tier → CodePoint
  | .t1 => 0x00000000#32
  | .t2 => 0x00000080#32
  | .t3 => 0x00000800#32
  | .t4 => 0x00010000#32
  | .t5 => 0x00200000#32
  | .t6 => 0x04000000#32

/-- Column ENC_HI of rule R65. -/
def Tier.encHi : Tier → CodePoint
  | .t1 => 0x0000007F#32
  | .t2 => 0x000007FF#32
  | .t3 => 0x0000FFFF#32
  | .t4 => 0x001FFFFF#32
  | .t5 => 0x03FFFFFF#32
  | .t6 => 0x7FFFFFFF#32

/-- Column TAG of rule R65; tier 1 has none (0x00). -/
def Tier.tag : Tier → Byte
  | .t1 => 0x00#8 | .t2 => 0xC0#8 | .t3 => 0xE0#8 | .t4 => 0xF0#8 | .t5 => 0xF8#8 | .t6 => 0xFC#8

/-- Column SHIFT = 6(n-1) of rule R65. -/
def Tier.shift : Tier → Nat
  | .t1 => 0 | .t2 => 6 | .t3 => 12 | .t4 => 18 | .t5 => 24 | .t6 => 30

/-- Column LMASK of rule R65. Tier 1 has "n/a (the whole byte)", so its entry keeps every bit; the rules of tier 1
never read it (DESIGN CHOICE, notes/assumptions/12.md). -/
def Tier.lmask : Tier → Byte
  | .t1 => 0xFF#8 | .t2 => 0x1F#8 | .t3 => 0x0F#8 | .t4 => 0x07#8 | .t5 => 0x03#8 | .t6 => 0x01#8

/-- Column DEC_LO of rule R65. -/
def Tier.decLo : Tier → Packed
  | .t1 => 0x00#48
  | .t2 => 0xC080#48
  | .t3 => 0xE08080#48
  | .t4 => 0xF0808080#48
  | .t5 => 0xF880808080#48
  | .t6 => 0xFC8080808080#48

/-- Column DEC_HI of rule R65. -/
def Tier.decHi : Tier → Packed
  | .t1 => 0x7F#48
  | .t2 => 0xDFBF#48
  | .t3 => 0xEFBFBF#48
  | .t4 => 0xF7BFBFBF#48
  | .t5 => 0xFBBFBFBFBF#48
  | .t6 => 0xFDBFBFBFBFBF#48

/-- The priority masks of rule R67. -/
def Tier.encMask : Tier → CodePoint
  | .t1 => 0xFFFFFF80#32
  | .t2 => 0xFFFFF800#32
  | .t3 => 0xFFFF0000#32
  | .t4 => 0xFFE00000#32
  | .t5 => 0xFC000000#32
  | .t6 => 0x80000000#32

/-- TMASK of rule R71. -/
def Tier.tagMask : Tier → Packed
  | .t1 => 0xFFFFFFFFFF80#48
  | .t2 => 0xFFFFFFFFE000#48
  | .t3 => 0xFFFFFFF00000#48
  | .t4 => 0xFFFFF8000000#48
  | .t5 => 0xFFFC00000000#48
  | .t6 => 0xFE0000000000#48

/-- TMATCH of rule R71. -/
def Tier.tagMatch : Tier → Packed
  | .t1 => 0x000000000000#48
  | .t2 => 0x00000000C000#48
  | .t3 => 0x000000E00000#48
  | .t4 => 0x0000F0000000#48
  | .t5 => 0x00F800000000#48
  | .t6 => 0xFC0000000000#48

/-- SMASK of rule R73. -/
def Tier.strictMask : Tier → Packed
  | .t1 => 0xFFFFFFFFFF80#48
  | .t2 => 0xFFFFFFFFE0C0#48
  | .t3 => 0xFFFFFFF0C0C0#48
  | .t4 => 0xFFFFF8C0C0C0#48
  | .t5 => 0xFFFCC0C0C0C0#48
  | .t6 => 0xFEC0C0C0C0C0#48

/-- SMATCH of rule R73. -/
def Tier.strictMatch : Tier → Packed
  | .t1 => 0x000000000000#48
  | .t2 => 0x00000000C080#48
  | .t3 => 0x000000E08080#48
  | .t4 => 0x0000F0808080#48
  | .t5 => 0x00F880808080#48
  | .t6 => 0xFC8080808080#48

/-- The byte at position j of a packed value, `B_j = P[8j+7 : 8j]` (rule R10). -/
def byteLane (p : Packed) (j : Nat) : Byte := p.extractLsb' (8 * j) 8

/-- Byte k, in emission order, of the n-byte sequence that P carries: `b_k = B_(n-1-k)` (rules R10, R44, R64). -/
def seqByte (n : Nat) (p : Packed) (k : Nat) : Byte := byteLane p (n - 1 - k)

/-- The host's byte-array view of the packed value of an n-byte sequence, leading byte first (rule R44). -/
def laneBytes (n : Nat) (p : Packed) : List Byte := (List.range n).map (seqByte n p)

/-- The packed integer of a byte sequence, first byte most significant, right-aligned in 48 bits (rules R42, R43).
It is exact for up to six bytes. -/
def packBytes (bs : List Byte) : Packed := bs.foldl (fun acc b => acc <<< 8 ||| b.setWidth 48) 0#48

/-- The form `10xxxxxx`: `b[7:6] = 2'b10` (rules R73, R148). -/
def isContinuation (b : Byte) : Bool := b.extractLsb' 6 2 == 0b10#2

/-- `ENC_LO(n) <= cp <= ENC_HI(n)` (rule R66). -/
def encInRange (t : Tier) (cp : CodePoint) : Bool := decide (t.encLo ≤ cp) && decide (cp ≤ t.encHi)

/-- `DEC_LO(n) <= P <= DEC_HI(n)`, on the whole packed integer (rule R69). -/
def decInRange (t : Tier) (p : Packed) : Bool := decide (t.decLo ≤ p) && decide (p ≤ t.decHi)

/-- The continuation bytes `b_1 .. b_(n-1)` of the pattern of tier n; tier 1 has none (rules R64, R148). -/
def contBytes (t : Tier) (p : Packed) : List Byte := (laneBytes t.bytes p).tail

/-- Tier n is selected for P under the build parameter: the range test, and with `DEC_STRICT_CONT = true` also every
continuation byte of the form `10xxxxxx` (rules R69, R73). -/
def decSelects (strict : Bool) (t : Tier) (p : Packed) : Bool :=
  decInRange t p && (!strict || (contBytes t p).all isContinuation)

end Sys2Proof
end

