-- ==== Sys2Proof/WellFormed.lean ====
section
/-!
DEFINITION. Which terms of `Instr` are cases of the block: the operand must be a value that selects the case
(rules R66, R69, R73, R77, R78). Selection on the decoder channel depends on the build parameter.
-/
namespace Sys2Proof

/-- The operand selects the case under the build parameter `strict` (column "range" of spec/opcode_table.json, and for
the DEC rows the strict condition of rule R73). -/
def Instr.wf (strict : Bool) : Instr → Bool
  | .encT1 cp => encInRange .t1 cp
  | .encT2 cp => encInRange .t2 cp
  | .encT3 cp => encInRange .t3 cp
  | .encT4 cp => encInRange .t4 cp
  | .encT5 cp => encInRange .t5 cp
  | .encT6 cp => encInRange .t6 cp
  | .encErr cp => decide (Config.cpMax < cp)
  | .decT1 p => decSelects strict .t1 p
  | .decT2 p => decSelects strict .t2 p
  | .decT3 p => decSelects strict .t3 p
  | .decT4 p => decSelects strict .t4 p
  | .decT5 p => decSelects strict .t5 p
  | .decT6 p => decSelects strict .t6 p
  | .decErr p => Tier.all.all fun t => !decSelects strict t p

end Sys2Proof
end

