-- ==== Sys2Proof/Decode.lean ====
section
/-!
DEFINITION. From the values on the input ports to the cases they select, and back.
Selecting is total on every port value and rejects none: "Nothing is 'reserved for future use', and no input behaves
as a no-op" (rule R80). The one thing rejected, by name, is a `DECB` of no byte or of more than six (rule R81).
-/
namespace Sys2Proof

/-- The encoder's range multiplexer (rule R66); no tier matches exactly when cp > 0x7FFFFFFF (rule R77). -/
def selectEnc (cp : CodePoint) : Instr :=
  if encInRange .t1 cp then .encT1 cp
  else if encInRange .t2 cp then .encT2 cp
  else if encInRange .t3 cp then .encT3 cp
  else if encInRange .t4 cp then .encT4 cp
  else if encInRange .t5 cp then .encT5 cp
  else if encInRange .t6 cp then .encT6 cp
  else .encErr cp

/-- The decoder's range match (rules R69, R73); DEC.ERR is "selected exactly when no DEC.T1..T6 row selects"
(spec/opcode_table.json, rule R147). -/
def selectDec (strict : Bool) (p : Packed) : Instr :=
  if decSelects strict .t1 p then .decT1 p
  else if decSelects strict .t2 p then .decT2 p
  else if decSelects strict .t3 p then .decT3 p
  else if decSelects strict .t4 p then .decT4 p
  else if decSelects strict .t5 p then .decT5 p
  else if decSelects strict .t6 p then .decT6 p
  else .decErr p

/-- The ENC case of a tier (rule R60). -/
def Tier.encCase : Tier → CodePoint → Instr
  | .t1 => .encT1 | .t2 => .encT2 | .t3 => .encT3 | .t4 => .encT4 | .t5 => .encT5 | .t6 => .encT6

/-- The DEC case of a tier (rule R60). -/
def Tier.decCase : Tier → Packed → Instr
  | .t1 => .decT1 | .t2 => .decT2 | .t3 => .decT3 | .t4 => .decT4 | .t5 => .decT5 | .t6 => .decT6

/-- The cases a presentation selects: one for each input port it drives (rule R60). -/
def decode (strict : Bool) : Presentation → List Instr
  | .enc cp => [selectEnc cp]
  | .dec p => [selectDec strict p]
  | .both cp p => [selectEnc cp, selectDec strict p]

/-- DESIGN CHOICE for the rejected lists, notes/assumptions/6.md. The pseudo-operation `DECB b0, ..., b(m-1)`, 1 ≤ m ≤ 6: the host packs the bytes and drives `dec_in`; the count m
is not passed to the block (rules R45, R81). -/
def decb (bs : List Byte) : Except DecbError Presentation :=
  if bs.isEmpty then .error .noBytes
  else if Config.packBytesMax < bs.length then .error .tooManyBytes
  else .ok (.dec (packBytes bs))

/-- The case that a byte pattern selects on the decoder channel, or why it is no `DECB` (rule R81). -/
def decodeBytes (strict : Bool) (bs : List Byte) : Except DecbError Instr :=
  if bs.isEmpty then .error .noBytes
  else if Config.packBytesMax < bs.length then .error .tooManyBytes
  else .ok (selectDec strict (packBytes bs))

/-- The port value of a case: what the host drives to ask for it (rules R60, R81). -/
def encode : Instr → Presentation
  | .encT1 cp => .enc cp
  | .encT2 cp => .enc cp
  | .encT3 cp => .enc cp
  | .encT4 cp => .enc cp
  | .encT5 cp => .enc cp
  | .encT6 cp => .enc cp
  | .encErr cp => .enc cp
  | .decT1 p => .dec p
  | .decT2 p => .dec p
  | .decT3 p => .dec p
  | .decT4 p => .dec p
  | .decT5 p => .dec p
  | .decT6 p => .dec p
  | .decErr p => .dec p

/-- A row's word as a presentation. The words of spec/opcode_table.json carry no channel bit (rule R60: "No opcode field
selects between them"), so the row's width names the port: 32 bits is `enc_cp` (every ENC row's mask spans 32 bits),
any other width up to 48 bits is `dec_in`, the bits above it 0. DESIGN CHOICE, notes/assumptions/5.md. -/
def tableWord (nbits w : Nat) : Option Presentation :=
  if 48 < nbits then none
  else if 2 ^ nbits ≤ w then none
  else if nbits == 32 then some (.enc (BitVec.ofNat 32 w))
  else some (.dec (BitVec.ofNat 48 w))

/-- The case the reference build selects for a row's word (rule R82). -/
def decodeTableWord (nbits w : Nat) : Option Instr :=
  match tableWord nbits w with
  | some pr => (decode Config.reference.decStrictCont pr).head?
  | none => none

end Sys2Proof
end

