-- ==== Sys2Proof/Machine/Operands.lean ====
section
/-!
DEFINITION. Operand assembly: the fields of the encoder (rule R74) and of the decoder (rule R75).
Every field is computed at 32 bits or at 8 bits, wide enough that no 1 bit is lost inside its tier (rules R8, R108).
-/
namespace Sys2Proof.Machine

open Sys2Proof

/-- The leading byte of tier n ≥ 2: `b_0 = (cp >> 6(n-1)) | TAG(n)`, placed in 8 bits (rules R74, R100, R108). -/
def leadByte (t : Tier) (cp : CodePoint) : Byte := (cp >>> t.shift ||| t.tag.setWidth 32).setWidth 8

/-- The continuation byte of the 6-bit slice of cp that starts at bit lo: `((cp >> lo) & 0x3F) | 0x80` (rule R74). -/
def contByte (cp : CodePoint) (lo : Nat) : Byte := (cp >>> lo &&& 0x3F#32).setWidth 8 ||| 0x80#8

/-- The payload of the leading byte at its place: `(b_0 & LMASK(n)) << 6(n-1)` (rule R75). -/
def leadPayload (t : Tier) (b : Byte) : CodePoint := (b &&& t.lmask).setWidth 32 <<< t.shift

/-- The payload of a continuation byte at bit lo: `(b_k & 0x3F) << lo`; "the top two bits of b_k are not read"
(rule R75). -/
def contPayload (b : Byte) (lo : Nat) : CodePoint := (b &&& 0x3F#8).setWidth 32 <<< lo

end Sys2Proof.Machine
end

