-- ==== Sys2Proof/Machine/State.lean ====
section
/-!
DEFINITION. The state of the model: the ports of both channels, the build, and what the host will present next.
The BLOCK stores nothing: no register, flag, memory, counter, program counter or mode (rules R20 to R23, R40). What
is held here is what stands on the block's ports after an evaluation (rules R24, R25, R30), the build parameter
(rules R6, R232) and the host's list of presentations (rule R211).
-/
namespace Sys2Proof.Machine

open Sys2Proof

/-- The output triple of the encoder channel (rule R24). The three belong to one input value (rule R48). -/
structure EncOutputs where
  /-- `enc_status`. -/
  status : Status
  /-- `enc_len`. -/
  len : Len
  /-- `enc_out`. -/
  out : Packed
  deriving DecidableEq, Repr

/-- The output triple of the decoder channel (rule R25). The three belong to one input value (rule R48). -/
structure DecOutputs where
  /-- `dec_status`. -/
  status : Status
  /-- `dec_len`. -/
  len : Len
  /-- `dec_cp`. -/
  cp : CodePoint
  deriving DecidableEq, Repr

/-- The machine. An input port that the host has not driven holds `none`, and so do its channel's outputs: before an
input is driven the outputs are unspecified, and "A model represents that by having no observation until the host
drives an input" (rule R231). That a held input's settled outputs stay here between steps: DEDUCED,
notes/assumptions/1.md. -/
structure State where
  /-- The build, fixed before any evaluation (rules R6, R232). That it stands in State: DESIGN CHOICE,
  notes/assumptions/4.md. -/
  build : Config
  /-- The value held on `enc_cp`; `none` until driven (rules R24, R231). -/
  encCp : Option CodePoint
  /-- The settled outputs `enc_status`, `enc_len`, `enc_out`; `none` is no observation (rules R24, R231). -/
  encOutputs : Option EncOutputs
  /-- The value held on `dec_in`; `none` until driven (rules R25, R231). -/
  decIn : Option Packed
  /-- The settled outputs `dec_status`, `dec_len`, `dec_cp`; `none` is no observation (rules R25, R231). -/
  decOutputs : Option DecOutputs
  /-- What the host presents from here on, next first (rule R211). The host's, not the block's:
  DESIGN CHOICE, notes/assumptions/2.md. -/
  script : List Presentation
  deriving DecidableEq, Repr

/-- (DEDUCED, notes/assumptions/11.md.) The block has no fault: "No other exception, fault or abort exists" than the two error RESULTS (rules R200, R204).
A closed type with no constructor: nothing raises one. -/
inductive Fault where
  deriving DecidableEq, Repr

/-- Why an instruction has no meaning. -/
inductive Refusal where
  /-- Raised by an arm of `exec` whose instruction is not modelled yet, and by nothing else; safe. No arm raises it. -/
  | notModelled (mnemonic : String)
  deriving DecidableEq, Repr

/-- The machine of a build right after power-up or reset: no stored state, no input driven, no observation
(rules R29, R230, R231); the build parameter keeps its build-time value (rule R231). -/
def State.resetOf (c : Config) : State :=
  { build := c, encCp := none, encOutputs := none, decIn := none, decOutputs := none, script := [] }

/-- The reference build right after reset (rules R6, R231). -/
def State.reset : State := State.resetOf Config.reference

end Sys2Proof.Machine
end

