-- ==== Sys2Proof/Machine/Flags.lean ====
section
/-!
DEFINITION. The status and length indicators, the block's only flags (rules R28, R203), and the forms of the two output
triples: success, and the error form with zero data (rules R24, R25, R205).
-/
namespace Sys2Proof.Machine

open Sys2Proof

/-- Status code 0, OK (rule R203). -/
def statusOk : Status := 0#2

/-- Status code 1, `InvalidCodepoint`, driven on `enc_status` only (rules R201, R203). -/
def statusInvalidCodepoint : Status := 1#2

/-- Status code 2, `InvalidEncoding`, driven on `dec_status` only (rules R202, R203). -/
def statusInvalidEncoding : Status := 2#2

/-- The ENC triple of a success: status 0, length n, data (rules R24, R30). -/
def encOk (n : Nat) (out : Packed) : EncOutputs := { status := statusOk, len := BitVec.ofNat 3 n, out := out }

/-- The ENC error form: status 1, length 0, data 0 (rules R63, R205). -/
def encError : EncOutputs := { status := statusInvalidCodepoint, len := 0#3, out := 0#48 }

/-- The DEC triple of a success: status 0, length n, data (rules R25, R30). -/
def decOk (n : Nat) (cp : CodePoint) : DecOutputs := { status := statusOk, len := BitVec.ofNat 3 n, cp := cp }

/-- The DEC error form: status 2, length 0, data 0 (rules R64, R205). -/
def decError : DecOutputs := { status := statusInvalidEncoding, len := 0#3, cp := 0#32 }

end Sys2Proof.Machine
end

