-- ==== Sys2Proof/Machine/Ops.lean ====
section
/-!
DEFINITION. The named operations over the ports. There is no register and no memory to operate on (rules R21, R40,
R41), so these are the only ones: driving an input port, delivering a success (`return Ok(...)`) and raising an error
(`raise ...`), as rule R9 names them.
Raising an error is this block's taking of an exception: the error form on the channel's outputs and NOTHING else; no
state saved, no mode, no vector (rule R204). No return from it exists (rule R207), so none is defined.
-/
namespace Sys2Proof.Machine

open Sys2Proof

/-- The host drives `enc_cp` with a value and holds it (rules R211, R234). -/
def State.driveEnc (cp : CodePoint) (s : State) : State := { s with encCp := some cp }

/-- The host drives `dec_in` with a value and holds it (rules R211, R234). -/
def State.driveDec (p : Packed) (s : State) : State := { s with decIn := some p }

/-- Drive the input ports that a presentation names (rules R60, R27). -/
def State.drive (pr : Presentation) (s : State) : State :=
  match pr with
  | .enc cp => s.driveEnc cp
  | .dec p => s.driveDec p
  | .both cp p => (s.driveEnc cp).driveDec p

/-- The three ENC outputs written together (rule R48). -/
def State.setEnc (o : EncOutputs) (s : State) : State := { s with encOutputs := some o }

/-- The three DEC outputs written together (rule R48). -/
def State.setDec (o : DecOutputs) (s : State) : State := { s with decOutputs := some o }

/-- `return Ok(len = n, out = out)` on ENC (rules R9, R100). -/
def returnEnc (n : Nat) (out : Packed) (s : State) : State := s.setEnc (encOk n out)

/-- `return Ok(len = n, cp = cp)` on DEC (rules R9, R140). -/
def returnDec (n : Nat) (cp : CodePoint) (s : State) : State := s.setDec (decOk n cp)

/-- `raise InvalidCodepoint()`: the ENC error form, nothing else (rules R201, R204, R205). -/
def raiseInvalidCodepoint (s : State) : State := s.setEnc encError

/-- `raise InvalidEncoding()`: the DEC error form, nothing else (rules R202, R204, R205). -/
def raiseInvalidEncoding (s : State) : State := s.setDec decError

end Sys2Proof.Machine
end

