-- ==== Sys2Proof/Machine/Decoder.lean ====
section
/-!
DEFINITION. The decoder channel: one meaning for each DEC case, from rules R141 to R147.
A meaning of tier n ≥ 2 holds the strict check of its own rule (rule R148: made after the range selection); under
`DEC_STRICT_CONT = true` the selection of rule R73 has already sent such a pattern to DEC.ERR, which gives the same
result (DEDUCED, notes/assumptions/9.md). On a term that is not well-formed: DESIGN CHOICE, notes/assumptions/8.md.
-/
namespace Sys2Proof.Machine

open Sys2Proof

/-- The end of every DEC.Tn, n ≥ 2: with STRICT and a continuation byte not of the form `10xxxxxx` raise
`InvalidEncoding`, else deliver the code point (rules R140, R148). -/
def finishDec (t : Tier) (p : Packed) (cp : CodePoint) (s : State) : State :=
  if s.build.decStrictCont && !(contBytes t p).all isContinuation then raiseInvalidEncoding s
  else returnDec t.bytes cp s

/-- DEC.T1: `zext_32(P[6:0])`; no exception in either mode (rule R141). -/
def execDecT1 (p : Packed) (s : State) : Host.Outcome State Fault Refusal :=
  .next (returnDec 1 ((p.extractLsb' 0 7).setWidth 32) s)

/-- DEC.T2 (rule R142). -/
def execDecT2 (p : Packed) (s : State) : Host.Outcome State Fault Refusal :=
  .next (finishDec .t2 p (leadPayload .t2 (seqByte 2 p 0) ||| contPayload (seqByte 2 p 1) 0) s)

/-- DEC.T3 (rule R143). -/
def execDecT3 (p : Packed) (s : State) : Host.Outcome State Fault Refusal :=
  .next (finishDec .t3 p
    (leadPayload .t3 (seqByte 3 p 0) ||| contPayload (seqByte 3 p 1) 6 ||| contPayload (seqByte 3 p 2) 0) s)

/-- DEC.T4 (rule R144). -/
def execDecT4 (p : Packed) (s : State) : Host.Outcome State Fault Refusal :=
  .next (finishDec .t4 p
    (leadPayload .t4 (seqByte 4 p 0) ||| contPayload (seqByte 4 p 1) 12 ||| contPayload (seqByte 4 p 2) 6
      ||| contPayload (seqByte 4 p 3) 0) s)

/-- DEC.T5 (rule R145). -/
def execDecT5 (p : Packed) (s : State) : Host.Outcome State Fault Refusal :=
  .next (finishDec .t5 p
    (leadPayload .t5 (seqByte 5 p 0) ||| contPayload (seqByte 5 p 1) 18 ||| contPayload (seqByte 5 p 2) 12
      ||| contPayload (seqByte 5 p 3) 6 ||| contPayload (seqByte 5 p 4) 0) s)

/-- DEC.T6 (rule R146). -/
def execDecT6 (p : Packed) (s : State) : Host.Outcome State Fault Refusal :=
  .next (finishDec .t6 p
    (leadPayload .t6 (seqByte 6 p 0) ||| contPayload (seqByte 6 p 1) 24 ||| contPayload (seqByte 6 p 2) 18
      ||| contPayload (seqByte 6 p 3) 12 ||| contPayload (seqByte 6 p 4) 6 ||| contPayload (seqByte 6 p 5) 0) s)

/-- DEC.ERR: the error result, always; nothing of the operand appears on an output (rule R147). -/
def execDecErr (_p : Packed) (s : State) : Host.Outcome State Fault Refusal :=
  .next (raiseInvalidEncoding s)

end Sys2Proof.Machine
end

