-- ==== Sys2Proof/Machine/Encoder.lean ====
section
/-!
DEFINITION. The encoder channel: one meaning for each ENC case, from rules R101 to R107.
A meaning runs its rule's pseudocode on its operand; that the operand selects the case is `Instr.wf`, and `step` runs a
case only after selecting it (a term that is not well-formed: DESIGN CHOICE, notes/assumptions/8.md).
-/
namespace Sys2Proof.Machine

open Sys2Proof

/-- ENC.T1: "The byte is the value itself" (rule R101). -/
def execEncT1 (cp : CodePoint) (s : State) : Host.Outcome State Fault Refusal :=
  .next (returnEnc 1 ((cp.extractLsb' 0 7).setWidth 48) s)

/-- ENC.T2 (rule R102). -/
def execEncT2 (cp : CodePoint) (s : State) : Host.Outcome State Fault Refusal :=
  .next (returnEnc 2 (packBytes [leadByte .t2 cp, contByte cp 0]) s)

/-- ENC.T3 (rule R103). -/
def execEncT3 (cp : CodePoint) (s : State) : Host.Outcome State Fault Refusal :=
  .next (returnEnc 3 (packBytes [leadByte .t3 cp, contByte cp 6, contByte cp 0]) s)

/-- ENC.T4 (rule R104). -/
def execEncT4 (cp : CodePoint) (s : State) : Host.Outcome State Fault Refusal :=
  .next (returnEnc 4 (packBytes [leadByte .t4 cp, contByte cp 12, contByte cp 6, contByte cp 0]) s)

/-- ENC.T5 (rule R105). -/
def execEncT5 (cp : CodePoint) (s : State) : Host.Outcome State Fault Refusal :=
  .next (returnEnc 5
    (packBytes [leadByte .t5 cp, contByte cp 18, contByte cp 12, contByte cp 6, contByte cp 0]) s)

/-- ENC.T6 (rule R106). -/
def execEncT6 (cp : CodePoint) (s : State) : Host.Outcome State Fault Refusal :=
  .next (returnEnc 6
    (packBytes [leadByte .t6 cp, contByte cp 24, contByte cp 18, contByte cp 12, contByte cp 6, contByte cp 0]) s)

/-- ENC.ERR: the error result, always; nothing of the operand appears on an output (rule R107). -/
def execEncErr (_cp : CodePoint) (s : State) : Host.Outcome State Fault Refusal :=
  .next (raiseInvalidCodepoint s)

end Sys2Proof.Machine
end

