-- ==== Sys2Proof/Machine/Dispatch.lean ====
section
/-!
DEFINITION. One arm for each case, each a direct call of its meaning.
-/
namespace Sys2Proof.Machine

open Sys2Proof

def exec (i : Instr) (s : State) : Host.Outcome State Fault Refusal :=
  match i with
  | .encT1 cp => Sys2Proof.Machine.execEncT1 cp s
  | .encT2 cp => Sys2Proof.Machine.execEncT2 cp s
  | .encT3 cp => Sys2Proof.Machine.execEncT3 cp s
  | .encT4 cp => Sys2Proof.Machine.execEncT4 cp s
  | .encT5 cp => Sys2Proof.Machine.execEncT5 cp s
  | .encT6 cp => Sys2Proof.Machine.execEncT6 cp s
  | .encErr cp => Sys2Proof.Machine.execEncErr cp s
  | .decT1 p => Sys2Proof.Machine.execDecT1 p s
  | .decT2 p => Sys2Proof.Machine.execDecT2 p s
  | .decT3 p => Sys2Proof.Machine.execDecT3 p s
  | .decT4 p => Sys2Proof.Machine.execDecT4 p s
  | .decT5 p => Sys2Proof.Machine.execDecT5 p s
  | .decT6 p => Sys2Proof.Machine.execDecT6 p s
  | .decErr p => Sys2Proof.Machine.execDecErr p s

end Sys2Proof.Machine
end

