-- ==== Sys2Proof/Machine/Fetch.lean ====
section
/-!
DEFINITION. What stands around `exec` in a step: taking the host's next presentation, driving the ports, selecting the
cases under the build parameter, and running them. The block fetches no instruction (rules R22, R53); the host's driving
of an input port is what starts an evaluation (rules R22, R60).
-/
namespace Sys2Proof.Machine

open Sys2Proof

/-- Run the selected cases in turn. A presentation of both ports selects two, one on each channel, and their order does
not matter (rule R27; DEDUCED, notes/assumptions/7.md). -/
def runCases : List Instr → State → Host.Outcome State Fault Refusal
  | [], s => .next s
  | i :: is, s =>
    match exec i s with
    | .next t => runCases is t
    | .fault r => .fault r
    | .refused r => .refused r

/-- One evaluation: drive the ports that the presentation names, select under the build parameter, run
(rules R26, R60). -/
def evaluate (pr : Presentation) (s : State) : Host.Outcome State Fault Refusal :=
  runCases (decode s.build.decStrictCont pr) (s.drive pr)

/-- The host's next presentation and the state without it, if it has one. -/
def takeNext (s : State) : Option (Presentation × State) :=
  match s.script with
  | [] => none
  | pr :: rest => some (pr, { s with script := rest })

/-- Put a presentation before everything the host was going to present. -/
def presentNext (pr : Presentation) (s : State) : State := { s with script := pr :: s.script }

/-- Present a table row's word next; a word that no port can carry presents nothing. -/
def presentWord (nbits w : Nat) (s : State) : State :=
  match tableWord nbits w with
  | some pr => presentNext pr s
  | none => s

end Sys2Proof.Machine
end

