-- ==== Sys2Proof/Machine/Step.lean ====
section
/-!
DEFINITION. One step: one atomic evaluation of what the host presents next (rule R235: "one evaluation is one atomic
step"). Where the host presents nothing more it holds its inputs, and the outputs stay as they are (rules R49, R234;
DESIGN CHOICE, notes/assumptions/3.md).
-/
namespace Sys2Proof.Machine

open Sys2Proof

/-- One step of the machine. -/
def step (s : State) : Host.Outcome State Fault Refusal :=
  match takeNext s with
  | none => .next s
  | some (pr, t) => evaluate pr t

/-- The state whose next step presents that table row's word (notes/assumptions/3.md and 5.md). -/
def State.withFetchWord (s : State) (nbits w : Nat) : State := presentWord nbits w s

end Sys2Proof.Machine
end

