-- ==== Sys2Proof/Machine/Channel.lean ====
section
/-!
DEFINITION. The two channel functions as the spec states them whole: ENCODE (rule R100) and DECODE (rule R140), in exact
natural-number arithmetic (rule R8) over the tier number n. The step does not use them; the claims do: they are the
clear form that the cases of Encoder.lean and Decoder.lean must agree with.
-/
namespace Sys2Proof.Machine

open Sys2Proof

/-- Byte k of ENCODE's sequence for tier n, as a number (rule R100). -/
def encodeByte (t : Tier) (cp : Nat) (k : Nat) : Nat :=
  if t.bytes = 1 then cp % 256
  else if k = 0 then (cp >>> (6 * (t.bytes - 1)) ||| t.tag.toNat) % 256
  else (cp >>> (6 * (t.bytes - 1 - k))) &&& 0x3F ||| 0x80

/-- ENCODE's packed value for tier n: `sum over k = 0..n-1 of b_k << 8(n-1-k)` (rule R100). -/
def encodeSum (t : Tier) (cp : Nat) : Nat :=
  ((List.range t.bytes).map fun k => encodeByte t cp k <<< (8 * (t.bytes - 1 - k))).sum

/-- ENCODE(cp), "the complete function of the ENC channel" (rule R100). -/
def channelEncode (cp : CodePoint) : EncOutputs :=
  match Tier.all.find? fun t => encInRange t cp with
  | none => encError
  | some t => encOk t.bytes (BitVec.ofNat 48 (encodeSum t cp.toNat))

/-- Byte k of the n-byte pattern P, as a number: `b_k = P[8(n-1-k)+7 : 8(n-1-k)]` (rule R140). -/
def patternByte (n : Nat) (p : Nat) (k : Nat) : Nat := p / 2 ^ (8 * (n - 1 - k)) % 256

/-- DECODE's code point for tier n (rule R140): tier 1 takes `P[6:0]`, the others OR the payloads together, most
significant first. -/
def decodeValue (t : Tier) (p : Nat) : Nat :=
  if t.bytes = 1 then p % 128
  else
    (List.range (t.bytes - 1)).foldl
      (fun acc k => acc ||| (patternByte t.bytes p (k + 1) &&& 0x3F) <<< (6 * (t.bytes - 1 - (k + 1))))
      ((patternByte t.bytes p 0 &&& t.lmask.toNat) <<< (6 * (t.bytes - 1)))

/-- Some `b_k`, k in 1..n-1, has `b_k[7:6] != 2'b10` (rule R140). -/
def badContinuation (t : Tier) (p : Nat) : Bool :=
  (List.range (t.bytes - 1)).any fun k => patternByte t.bytes p (k + 1) / 64 != 2

/-- DECODE(P), "the complete function of the DEC channel" (rule R140): the range test first, then the strict test. -/
def channelDecode (strict : Bool) (p : Packed) : DecOutputs :=
  match Tier.all.find? fun t => decInRange t p with
  | none => decError
  | some t =>
    if strict && badContinuation t p.toNat then decError
    else decOk t.bytes (BitVec.ofNat 32 (decodeValue t p.toNat))

end Sys2Proof.Machine
end

