-- ==== Sys2Proof/Safety.lean ====
section
/-!
DEFINITION. What claims about runs are stated in: outputs that follow their input (rule R26), outputs the spec allows
(rules R24, R25, R203, R205), and a run that never stops.
-/
namespace Sys2Proof.Machine

open Sys2Proof

/-- Each channel's outputs are its function's value of its own input port; a port that is not driven has no observation
(rules R26, R231). -/
def State.OutputsFollowInputs (s : State) : Prop :=
  s.encOutputs = s.encCp.map channelEncode ∧
  s.decOutputs = s.decIn.map (channelDecode s.build.decStrictCont)

/-- An ENC triple of the form that rules R24, R63, R203 and R205 give it: status 0 with a length n of 1 to 6 and every
bit from 8n up zero, or the error form of status 1; never 2 or 3. -/
def EncOutputs.Legal (o : EncOutputs) : Prop :=
  (o.status = 0#2 ∧ 1#3 ≤ o.len ∧ o.len ≤ 6#3 ∧ o.out.toNat < 2 ^ (8 * o.len.toNat)) ∨
  (o.status = 1#2 ∧ o.len = 0#3 ∧ o.out = 0#48)

/-- A DEC triple of the form that rules R25, R64, R203 and R205 give it: status 0 with a length of 1 to 6 and a code point
of at most 0x7FFFFFFF, or the error form of status 2; never 1 or 3. -/
def DecOutputs.Legal (o : DecOutputs) : Prop :=
  (o.status = 0#2 ∧ 1#3 ≤ o.len ∧ o.len ≤ 6#3 ∧ o.cp ≤ Config.cpMax) ∨
  (o.status = 2#2 ∧ o.len = 0#3 ∧ o.cp = 0#32)

/-- Every triple on the ports has the form that rules R24, R25, R63, R64, R203 and R205 give it. -/
def State.OutputsLegal (s : State) : Prop :=
  (∀ o, s.encOutputs = some o → o.Legal) ∧ (∀ o, s.decOutputs = some o → o.Legal)

/-- The ENC cases, which act on the encoder channel; every other case acts on the decoder channel (rule R60). -/
def isEncCase : Instr → Bool
  | .encT1 _ | .encT2 _ | .encT3 _ | .encT4 _ | .encT5 _ | .encT6 _ | .encErr _ => true
  | .decT1 _ | .decT2 _ | .decT3 _ | .decT4 _ | .decT5 _ | .decT6 _ | .decErr _ => false

/-- What is observed of `ENC <cp>`: the output triple of the channel evaluated (rules R30, R81). -/
def observeEnc (cp : CodePoint) (s : State) : Option EncOutputs :=
  match evaluate (.enc cp) s with
  | .next t => t.encOutputs
  | .fault _ => none
  | .refused _ => none

/-- What is observed of `DEC <P>`: the output triple of the channel evaluated (rules R30, R81). -/
def observeDec (p : Packed) (s : State) : Option DecOutputs :=
  match evaluate (.dec p) s with
  | .next t => t.decOutputs
  | .fault _ => none
  | .refused _ => none

/-- The value a presentation drives on `enc_cp`, if it drives that port. -/
def encValue : Presentation → Option CodePoint
  | .enc cp => some cp
  | .dec _ => none
  | .both cp _ => some cp

/-- The value a presentation drives on `dec_in`, if it drives that port. -/
def decValue : Presentation → Option Packed
  | .enc _ => none
  | .dec p => some p
  | .both _ p => some p

/-- The run of n steps from s ends in a state: no fault and no refusal on the way. -/
def SafeRun (n : Nat) (s : State) : Prop := ∃ t, Host.Core.run Sys2Proof.core n s = .next t

end Sys2Proof.Machine
end

