-- ==== Sys2Proof/Certificates/Slice0/Obligations.lean ====
section
/-!
DEFINITION. The statements for the provers. "Every state" is every state, reached or not, of either build.
A triple `⟨a, b, c⟩` is a channel's outputs: status, length, data (rules R24, R25).
-/
open Sys2Proof Sys2Proof.Machine

/-! ### Selection on the encoder channel -/

/-- Rule R62: bit 31 of `enc_cp` is `OOR`, 1 exactly when cp > 0x7FFFFFFF; otherwise bits 30..0 are the code point. -/
def Obligations.OutOfRangeBitIsBit31 : Prop :=
  ∀ cp : CodePoint,
    (cp.getLsbD 31 = true ↔ Config.cpMax < cp) ∧
    (cp.getLsbD 31 = false → (cp.extractLsb' 0 31).setWidth 32 = cp)

/-- Rule R66: the ENC ranges are disjoint, contiguous and cover [0, 0x7FFFFFFF] exactly; the tier in whose range cp lies
is selected, and ENC.ERR when there is none. -/
def Obligations.EncoderSelectsTheOneTierInRange : Prop :=
  ∀ cp : CodePoint,
    (∀ t, encInRange t cp = true → selectEnc cp = t.encCase cp) ∧
    (∀ t u, encInRange t cp = true → encInRange u cp = true → t = u) ∧
    ((∃ t, encInRange t cp = true) ↔ cp ≤ Config.cpMax) ∧
    (Config.cpMax < cp → selectEnc cp = .encErr cp)

/-- Rule R67: the first row, in order, with `(cp & MASK) = 0` selects, and ENC.ERR when cp & 0x80000000 = 0x80000000;
each row's mask test says that the bits from its boundary up are 0. -/
def Obligations.EncoderPriorityMasksSelectTheSame : Prop :=
  ∀ cp : CodePoint,
    (selectEnc cp =
      if cp &&& 0xFFFFFF80#32 = 0#32 then .encT1 cp
      else if cp &&& 0xFFFFF800#32 = 0#32 then .encT2 cp
      else if cp &&& 0xFFFF0000#32 = 0#32 then .encT3 cp
      else if cp &&& 0xFFE00000#32 = 0#32 then .encT4 cp
      else if cp &&& 0xFC000000#32 = 0#32 then .encT5 cp
      else if cp &&& 0x80000000#32 = 0#32 then .encT6 cp
      else .encErr cp) ∧
    (selectEnc cp = .encErr cp ↔ cp &&& 0x80000000#32 = 0x80000000#32) ∧
    (cp &&& 0xFFFFFF80#32 = 0#32 ↔ cp.extractLsb' 7 25 = 0#25) ∧
    (cp &&& 0xFFFFF800#32 = 0#32 ↔ cp.extractLsb' 11 21 = 0#21) ∧
    (cp &&& 0xFFFF0000#32 = 0#32 ↔ cp.extractLsb' 16 16 = 0#16) ∧
    (cp &&& 0xFFE00000#32 = 0#32 ↔ cp.extractLsb' 21 11 = 0#11) ∧
    (cp &&& 0xFC000000#32 = 0#32 ↔ cp.extractLsb' 26 6 = 0#6) ∧
    (cp &&& 0x80000000#32 = 0#32 ↔ cp.getLsbD 31 = false) ∧
    (cp &&& 0x80000000#32 = 0x80000000#32 ↔ cp.getLsbD 31 = true)

/-- Rule R68: the tier by the index h of the highest 1 bit (cp = 0 is tier 1), and the payload bits of each tier. -/
def Obligations.EncoderTierByHighestSetBit : Prop :=
  (selectEnc 0#32 = .encT1 0#32) ∧
  (∀ (cp : CodePoint) (h : Nat), cp.getLsbD h = true → (∀ j, h < j → cp.getLsbD j = false) →
    selectEnc cp =
      if h ≤ 6 then .encT1 cp
      else if h ≤ 10 then .encT2 cp
      else if h ≤ 15 then .encT3 cp
      else if h ≤ 20 then .encT4 cp
      else if h ≤ 25 then .encT5 cp
      else if h ≤ 30 then .encT6 cp
      else .encErr cp) ∧
  (∀ t : Tier, t.encHi.toNat + 1 = 2 ^ (if t = .t1 then 7 else 5 * t.bytes + 1))

/-! ### Selection on the decoder channel -/

/-- Rules R69 and R70: at most one DEC range holds P, each range ends below the next one's start, the permissive build
selects the tier whose range holds P (the strict build asks rule R73's second condition as well), a P in no range is
DEC.ERR in both builds, and those are the six gaps. -/
def Obligations.DecoderSelectsByPackedRange : Prop :=
  (∀ (p : Packed) (t u : Tier), decInRange t p = true → decInRange u p = true → t = u) ∧
  (∀ t u : Tier, u.bytes = t.bytes + 1 → t.decHi < u.decLo) ∧
  (∀ (p : Packed) (t : Tier), decInRange t p = true → selectDec false p = t.decCase p) ∧
  (∀ (strict : Bool) (p : Packed) (t : Tier), decSelects strict t p = true → selectDec strict p = t.decCase p) ∧
  (∀ (strict : Bool) (p : Packed), (∀ t, decInRange t p = false) → selectDec strict p = .decErr p) ∧
  (∀ p : Packed, selectDec false p = .decErr p ↔
    (0x80#48 ≤ p ∧ p ≤ 0xC07F#48) ∨ (0xDFC0#48 ≤ p ∧ p ≤ 0xE0807F#48) ∨
    (0xEFBFC0#48 ≤ p ∧ p ≤ 0xF080807F#48) ∨ (0xF7BFBFC0#48 ≤ p ∧ p ≤ 0xF88080807F#48) ∨
    (0xFBBFBFBFC0#48 ≤ p ∧ p ≤ 0xFC808080807F#48) ∨ (0xFDBFBFBFBFC0#48 ≤ p ∧ p ≤ 0xFFFFFFFFFFFF#48))

/-- Rule R71: a value in tier n's range matches its leading tag and its leading byte is one of the listed ones; for tier
1 the mask form is exact; a value that matches a tag outside its range is DEC.ERR, as 0xC07F and 0xDFC0 are. -/
def Obligations.RangeMatchImpliesLeadingTag : Prop :=
  (∀ (t : Tier) (p : Packed), decInRange t p = true →
    p &&& t.tagMask = t.tagMatch ∧
    t.tag ≤ seqByte t.bytes p 0 ∧ seqByte t.bytes p 0 ≤ (if t = .t1 then 0x7F#8 else t.tag ||| t.lmask)) ∧
  (∀ p : Packed, decInRange .t1 p = true ↔ p &&& 0xFFFFFFFFFF80#48 = 0#48) ∧
  (∀ (strict : Bool) (t : Tier) (p : Packed), p &&& t.tagMask = t.tagMatch → decInRange t p = false →
    selectDec strict p = .decErr p) ∧
  (∀ p ∈ [0xC07F#48, 0xDFC0#48], p &&& Tier.t2.tagMask = Tier.t2.tagMatch ∧ selectDec false p = .decErr p) ∧
  (Tier.all.map fun t => (t.tagMask, t.tagMatch)) =
    [(0xFFFFFFFFFF80#48, 0x000000000000#48), (0xFFFFFFFFE000#48, 0x00000000C000#48),
     (0xFFFFFFF00000#48, 0x000000E00000#48), (0xFFFFF8000000#48, 0x0000F0000000#48),
     (0xFFFC00000000#48, 0x00F800000000#48), (0xFE0000000000#48, 0xFC0000000000#48)]

/-- Rule R72: the range of tier n ≥ 2 read byte by byte, with T the n-1 trailing bytes as one number, and tier 1's
condition `P[47:7] = 0`; between the two end values of the leading byte the trailing bytes may be any. -/
def Obligations.PermissiveRangeReadByteByByte : Prop :=
  (∀ (t : Tier) (p : Packed), t ≠ .t1 →
    (decInRange t p = true ↔
      p.toNat / 2 ^ (8 * t.bytes) = 0 ∧
      t.tag ≤ seqByte t.bytes p 0 ∧ seqByte t.bytes p 0 ≤ t.tag ||| t.lmask ∧
      (seqByte t.bytes p 0 = t.tag →
        (packBytes (List.replicate (t.bytes - 1) 0x80#8)).toNat ≤ p.toNat % 2 ^ (8 * (t.bytes - 1))) ∧
      (seqByte t.bytes p 0 = t.tag ||| t.lmask →
        p.toNat % 2 ^ (8 * (t.bytes - 1)) ≤ (packBytes (List.replicate (t.bytes - 1) 0xBF#8)).toNat))) ∧
  (∀ (t : Tier) (p : Packed), t ≠ .t1 → p.toNat / 2 ^ (8 * t.bytes) = 0 →
    t.tag < seqByte t.bytes p 0 → seqByte t.bytes p 0 < t.tag ||| t.lmask → decInRange t p = true) ∧
  (∀ p : Packed, decInRange .t1 p = true ↔ p.extractLsb' 7 41 = 0#41)

/-- Rule R73: strict selection is the range test with every continuation byte `10xxxxxx`, an in-range value with another
one is DEC.ERR, and tier n is selected iff `(P & SMASK(n)) = SMATCH(n)`. -/
def Obligations.StrictSelectionIsItsMaskTable : Prop :=
  (∀ (t : Tier) (p : Packed),
    (decSelects true t p = true ↔
      decInRange t p = true ∧ ∀ k, 1 ≤ k → k < t.bytes → (seqByte t.bytes p k).extractLsb' 6 2 = 0b10#2)) ∧
  (∀ (t : Tier) (p : Packed), decInRange t p = true →
    (∃ k, 1 ≤ k ∧ k < t.bytes ∧ (seqByte t.bytes p k).extractLsb' 6 2 ≠ 0b10#2) → selectDec true p = .decErr p) ∧
  (∀ p : Packed,
    (selectDec true p = .decT1 p ↔ p &&& 0xFFFFFFFFFF80#48 = 0x000000000000#48) ∧
    (selectDec true p = .decT2 p ↔ p &&& 0xFFFFFFFFE0C0#48 = 0x00000000C080#48) ∧
    (selectDec true p = .decT3 p ↔ p &&& 0xFFFFFFF0C0C0#48 = 0x000000E08080#48) ∧
    (selectDec true p = .decT4 p ↔ p &&& 0xFFFFF8C0C0C0#48 = 0x0000F0808080#48) ∧
    (selectDec true p = .decT5 p ↔ p &&& 0xFFFCC0C0C0C0#48 = 0x00F880808080#48) ∧
    (selectDec true p = .decT6 p ↔ p &&& 0xFEC0C0C0C0C0#48 = 0xFC8080808080#48))

/-! ### Words of the cases -/

/-- One word of each row of the table, written from its range, mask and tag (rule R82), selects the row's case. -/
def Obligations.TableWordsSelectTheirRows : Prop :=
  decodeTableWord 32 0x00000041 = some (.encT1 0x00000041#32) ∧
  decodeTableWord 32 0x00000080 = some (.encT2 0x00000080#32) ∧
  decodeTableWord 32 0x000020AC = some (.encT3 0x000020AC#32) ∧
  decodeTableWord 32 0x0001F600 = some (.encT4 0x0001F600#32) ∧
  decodeTableWord 32 0x00200000 = some (.encT5 0x00200000#32) ∧
  decodeTableWord 32 0x7FFFFFFF = some (.encT6 0x7FFFFFFF#32) ∧
  decodeTableWord 32 0x80000000 = some (.encErr 0x80000000#32) ∧
  decodeTableWord 48 0x00000000007F = some (.decT1 0x00000000007F#48) ∧
  decodeTableWord 48 0x00000000C280 = some (.decT2 0x00000000C280#48) ∧
  decodeTableWord 48 0x000000E282AC = some (.decT3 0x000000E282AC#48) ∧
  decodeTableWord 48 0x0000F09F9880 = some (.decT4 0x0000F09F9880#48) ∧
  decodeTableWord 48 0x00FBBFBFBFBF = some (.decT5 0x00FBBFBFBFBF#48) ∧
  decodeTableWord 48 0xFDBFBFBFBFBF = some (.decT6 0xFDBFBFBFBFBF#48) ∧
  decodeTableWord 48 0x000000000080 = some (.decErr 0x000000000080#48)

/-- Selecting what a well-formed case's port word asks for gives that case back, for every case, operand and build. -/
def Obligations.DecodeOfEncodeIsTheCase : Prop :=
  ∀ (strict : Bool) (i : Instr), i.wf strict = true → decode strict (encode i) = [i]

/-- Rule R80: every value of either input port is one of the fourteen cases of its channel, well-formed, and its word is
the value that was driven; nothing is reserved, and none is a no-op: its channel's outputs are always delivered. -/
def Obligations.EveryPortValueIsOneCase : Prop :=
  (∀ (strict : Bool) (cp : CodePoint),
    (selectEnc cp).wf strict = true ∧ encode (selectEnc cp) = .enc cp ∧ isEncCase (selectEnc cp) = true) ∧
  (∀ (strict : Bool) (p : Packed),
    (selectDec strict p).wf strict = true ∧ encode (selectDec strict p) = .dec p ∧
    isEncCase (selectDec strict p) = false) ∧
  (∀ (cp : CodePoint) (s : State), ∃ t o, exec (selectEnc cp) s = .next t ∧ t.encOutputs = some o) ∧
  (∀ (p : Packed) (s : State), ∃ t o, exec (selectDec s.build.decStrictCont p) s = .next t ∧ t.decOutputs = some o)

/-! ### Packed values -/

/-- Rule R43: n bytes sit right-aligned, byte k at lane n-1-k, zero above, and the value is the big-endian number;
reading the n lanes in emission order (rule R44) and packing them gives the value back; 0xC2 0x80 is 0xC280. -/
def Obligations.PackedBytesSitRightAlignedBigEndian : Prop :=
  (∀ bs : List Byte, bs.length ≤ 6 →
    (∀ k (h : k < bs.length),
      (packBytes bs).extractLsb' (8 * (bs.length - 1 - k)) 8 = bs[k]) ∧
    (packBytes bs).toNat / 2 ^ (8 * bs.length) = 0 ∧
    (packBytes bs).toNat = ((List.range bs.length).map fun k => bs[k]!.toNat * 2 ^ (8 * (bs.length - 1 - k))).sum) ∧
  (∀ (n : Nat) (p : Packed), n ≤ 6 → p.toNat < 2 ^ (8 * n) →
    (laneBytes n p).length = n ∧ packBytes (laneBytes n p) = p) ∧
  packBytes [0xC2#8, 0x80#8] = 0x00000000C280#48

/-- Rule R45: `DECB` (rule R81) drives the packed value of 1 to 6 bytes and nothing of their count, so leading 0x00
bytes change nothing; [0x00, 0x41] decodes by tier 1 to 0x41. -/
def Obligations.ByteArraysArePackedWithoutTheirLength : Prop :=
  (∀ bs : List Byte, 1 ≤ bs.length → bs.length ≤ 6 →
    decb bs = .ok (.dec (packBytes bs)) ∧
    ∀ strict, decodeBytes strict bs = .ok (selectDec strict (packBytes bs))) ∧
  (∀ bs : List Byte, bs.length ≤ 5 → packBytes (0x00#8 :: bs) = packBytes bs) ∧
  (∀ s : State, observeDec (packBytes [0x00#8, 0x41#8]) s = some ⟨0#2, 1#3, 0x41#32⟩)

/-! ### The encoder channel: each case -/

/-- Rule R101, ENC.T1. -/
def Obligations.EncTier1IsTheValueItself : Prop :=
  (∀ cp : CodePoint,
    (selectEnc cp = .encT1 cp ↔ 0x0#32 ≤ cp ∧ cp ≤ 0x7F#32) ∧
    (selectEnc cp = .encT1 cp ↔ cp.extractLsb' 7 25 = 0#25) ∧
    (selectEnc cp = .encT1 cp ↔ cp &&& 0xFFFFFF80#32 = 0#32)) ∧
  (∀ (cp : CodePoint) (s : State), exec (.encT1 cp) s =
    .next { s with encOutputs := some ⟨0#2, 1#3, (cp.extractLsb' 0 7).setWidth 48⟩ }) ∧
  (∀ s : State, observeEnc 0x00#32 s = some ⟨0#2, 1#3, 0x00#48⟩ ∧ observeEnc 0x7F#32 s = some ⟨0#2, 1#3, 0x7F#48⟩ ∧
    observeEnc 0x41#32 s = some ⟨0#2, 1#3, 0x41#48⟩)

/-- Rule R102, ENC.T2: `{3'b110, cp[10:6]}`, `{2'b10, cp[5:0]}`. -/
def Obligations.EncTier2PacksTwoBytes : Prop :=
  (∀ cp : CodePoint,
    (selectEnc cp = .encT2 cp ↔ 0x80#32 ≤ cp ∧ cp ≤ 0x7FF#32) ∧
    (selectEnc cp = .encT2 cp ↔ cp.extractLsb' 11 21 = 0#21 ∧ cp.extractLsb' 7 4 ≠ 0#4) ∧
    (selectEnc cp = .encT2 cp ↔ selectEnc cp ≠ .encT1 cp ∧ cp &&& 0xFFFFF800#32 = 0#32)) ∧
  (∀ (cp : CodePoint) (s : State), 0x80#32 ≤ cp → cp ≤ 0x7FF#32 →
    exec (.encT2 cp) s = .next { s with encOutputs := some ⟨0#2, 2#3,
      ((0b110#3 ++ cp.extractLsb' 6 5) ++ (0b10#2 ++ cp.extractLsb' 0 6)).setWidth 48⟩ } ∧
    0xC2#8 ≤ 0b110#3 ++ cp.extractLsb' 6 5 ∧ 0b110#3 ++ cp.extractLsb' 6 5 ≤ 0xDF#8) ∧
  (∀ s : State, observeEnc 0x80#32 s = some ⟨0#2, 2#3, 0xC280#48⟩ ∧ observeEnc 0x7FF#32 s = some ⟨0#2, 2#3, 0xDFBF#48⟩)

/-- Rule R103, ENC.T3: `{4'b1110, cp[15:12]}`, `{2'b10, cp[11:6]}`, `{2'b10, cp[5:0]}`. -/
def Obligations.EncTier3PacksThreeBytes : Prop :=
  (∀ cp : CodePoint,
    (selectEnc cp = .encT3 cp ↔ 0x800#32 ≤ cp ∧ cp ≤ 0xFFFF#32) ∧
    (selectEnc cp = .encT3 cp ↔ cp.extractLsb' 16 16 = 0#16 ∧ cp.extractLsb' 11 5 ≠ 0#5) ∧
    (selectEnc cp = .encT3 cp ↔
      selectEnc cp ≠ .encT1 cp ∧ selectEnc cp ≠ .encT2 cp ∧ cp &&& 0xFFFF0000#32 = 0#32)) ∧
  (∀ (cp : CodePoint) (s : State), 0x800#32 ≤ cp → cp ≤ 0xFFFF#32 →
    exec (.encT3 cp) s = .next { s with encOutputs := some ⟨0#2, 3#3,
      ((0b1110#4 ++ cp.extractLsb' 12 4) ++ (0b10#2 ++ cp.extractLsb' 6 6) ++ (0b10#2 ++ cp.extractLsb' 0 6)).setWidth
        48⟩ } ∧
    (0b1110#4 ++ cp.extractLsb' 12 4 = 0xE0#8 → 0xA0#8 ≤ 0b10#2 ++ cp.extractLsb' 6 6)) ∧
  (∀ s : State, observeEnc 0x800#32 s = some ⟨0#2, 3#3, 0xE0A080#48⟩ ∧
    observeEnc 0xFFFF#32 s = some ⟨0#2, 3#3, 0xEFBFBF#48⟩ ∧ observeEnc 0xD800#32 s = some ⟨0#2, 3#3, 0xEDA080#48⟩ ∧
    observeEnc 0x20AC#32 s = some ⟨0#2, 3#3, 0xE282AC#48⟩)

/-- Rule R104, ENC.T4: `{5'b11110, cp[20:18]}` and three continuation bytes. -/
def Obligations.EncTier4PacksFourBytes : Prop :=
  (∀ cp : CodePoint,
    (selectEnc cp = .encT4 cp ↔ 0x10000#32 ≤ cp ∧ cp ≤ 0x1FFFFF#32) ∧
    (selectEnc cp = .encT4 cp ↔ cp.extractLsb' 21 11 = 0#11 ∧ cp.extractLsb' 16 5 ≠ 0#5) ∧
    (selectEnc cp = .encT4 cp ↔ selectEnc cp ≠ .encT1 cp ∧ selectEnc cp ≠ .encT2 cp ∧ selectEnc cp ≠ .encT3 cp ∧
      cp &&& 0xFFE00000#32 = 0#32)) ∧
  (∀ (cp : CodePoint) (s : State), 0x10000#32 ≤ cp → cp ≤ 0x1FFFFF#32 →
    exec (.encT4 cp) s = .next { s with encOutputs := some ⟨0#2, 4#3,
      ((0b11110#5 ++ cp.extractLsb' 18 3) ++ (0b10#2 ++ cp.extractLsb' 12 6) ++ (0b10#2 ++ cp.extractLsb' 6 6) ++
        (0b10#2 ++ cp.extractLsb' 0 6)).setWidth 48⟩ }) ∧
  (∀ s : State, observeEnc 0x10000#32 s = some ⟨0#2, 4#3, 0xF0908080#48⟩ ∧
    observeEnc 0x1FFFFF#32 s = some ⟨0#2, 4#3, 0xF7BFBFBF#48⟩ ∧
    observeEnc 0x10FFFF#32 s = some ⟨0#2, 4#3, 0xF48FBFBF#48⟩ ∧
    observeEnc 0x110000#32 s = some ⟨0#2, 4#3, 0xF4908080#48⟩ ∧
    observeEnc 0x1F600#32 s = some ⟨0#2, 4#3, 0xF09F9880#48⟩)

/-- Rule R105, ENC.T5: `{6'b111110, cp[25:24]}` and four continuation bytes; the 40-bit value is exact. -/
def Obligations.EncTier5PacksFiveBytes : Prop :=
  (∀ cp : CodePoint,
    (selectEnc cp = .encT5 cp ↔ 0x200000#32 ≤ cp ∧ cp ≤ 0x3FFFFFF#32) ∧
    (selectEnc cp = .encT5 cp ↔ cp.extractLsb' 26 6 = 0#6 ∧ cp.extractLsb' 21 5 ≠ 0#5) ∧
    (selectEnc cp = .encT5 cp ↔ selectEnc cp ≠ .encT1 cp ∧ selectEnc cp ≠ .encT2 cp ∧ selectEnc cp ≠ .encT3 cp ∧
      selectEnc cp ≠ .encT4 cp ∧ cp &&& 0xFC000000#32 = 0#32)) ∧
  (∀ (cp : CodePoint) (s : State), 0x200000#32 ≤ cp → cp ≤ 0x3FFFFFF#32 →
    exec (.encT5 cp) s = .next { s with encOutputs := some ⟨0#2, 5#3,
      ((0b111110#6 ++ cp.extractLsb' 24 2) ++ (0b10#2 ++ cp.extractLsb' 18 6) ++ (0b10#2 ++ cp.extractLsb' 12 6) ++
        (0b10#2 ++ cp.extractLsb' 6 6) ++ (0b10#2 ++ cp.extractLsb' 0 6)).setWidth 48⟩ }) ∧
  (∀ s : State, observeEnc 0x200000#32 s = some ⟨0#2, 5#3, 0xF888808080#48⟩ ∧
    observeEnc 0x3FFFFFF#32 s = some ⟨0#2, 5#3, 0xFBBFBFBFBF#48⟩)

/-- Rule R106, ENC.T6: `{7'b1111110, cp[30]}` and five continuation bytes; the value fills all 48 bits. -/
def Obligations.EncTier6PacksSixBytes : Prop :=
  (∀ cp : CodePoint,
    (selectEnc cp = .encT6 cp ↔ 0x4000000#32 ≤ cp ∧ cp ≤ 0x7FFFFFFF#32) ∧
    (selectEnc cp = .encT6 cp ↔ cp.getLsbD 31 = false ∧ cp.extractLsb' 26 5 ≠ 0#5) ∧
    (selectEnc cp = .encT6 cp ↔ selectEnc cp ≠ .encT1 cp ∧ selectEnc cp ≠ .encT2 cp ∧ selectEnc cp ≠ .encT3 cp ∧
      selectEnc cp ≠ .encT4 cp ∧ selectEnc cp ≠ .encT5 cp ∧ cp &&& 0x80000000#32 = 0#32)) ∧
  (∀ (cp : CodePoint) (s : State), 0x4000000#32 ≤ cp → cp ≤ 0x7FFFFFFF#32 →
    exec (.encT6 cp) s = .next { s with encOutputs := some ⟨0#2, 6#3,
      (0b1111110#7 ++ cp.extractLsb' 30 1) ++ (0b10#2 ++ cp.extractLsb' 24 6) ++ (0b10#2 ++ cp.extractLsb' 18 6) ++
        (0b10#2 ++ cp.extractLsb' 12 6) ++ (0b10#2 ++ cp.extractLsb' 6 6) ++ (0b10#2 ++ cp.extractLsb' 0 6)⟩ } ∧
    (0b1111110#7 ++ cp.extractLsb' 30 1 = 0xFC#8 ∨ 0b1111110#7 ++ cp.extractLsb' 30 1 = 0xFD#8)) ∧
  (∀ s : State, observeEnc 0x4000000#32 s = some ⟨0#2, 6#3, 0xFC8480808080#48⟩ ∧
    observeEnc 0x7FFFFFFF#32 s = some ⟨0#2, 6#3, 0xFDBFBFBFBFBF#48⟩)

/-- Rule R107, ENC.ERR, and the enc half of rules R201 and R205: exactly when cp[31] = 1, the error form and nothing
else; no partial result. -/
def Obligations.EncErrorIsInvalidCodepoint : Prop :=
  (∀ cp : CodePoint,
    (selectEnc cp = .encErr cp ↔ cp.getLsbD 31 = true) ∧
    (selectEnc cp = .encErr cp ↔ 0x80000000#32 ≤ cp ∧ cp ≤ 0xFFFFFFFF#32) ∧
    (selectEnc cp = .encErr cp ↔ cp &&& 0x80000000#32 = 0x80000000#32)) ∧
  (∀ (cp : CodePoint) (s : State),
    exec (.encErr cp) s = .next { s with encOutputs := some ⟨1#2, 0#3, 0#48⟩ }) ∧
  (∀ s : State, observeEnc 0x80000000#32 s = some ⟨1#2, 0#3, 0#48⟩ ∧ observeEnc 0xFFFFFFFF#32 s = some ⟨1#2, 0#3, 0#48⟩)

/-! ### The encoder channel: the whole -/

/-- Rule R100: the case that the range multiplexer selects writes ENCODE(cp) on the three outputs at once, and nothing
else, from every state. -/
def Obligations.EncoderCasesComputeEncode : Prop :=
  ∀ (cp : CodePoint) (s : State),
    exec (selectEnc cp) s = .next { s with encOutputs := some (channelEncode cp) }

/-- Rule R74: the bytes of a successful encode in emission order: `b_0 = L | TAG(n)` with L the high bits, and
`b_k = S_k | 0x80` with S_k the 6-bit slices most significant first; tier 1's one byte is cp itself. -/
def Obligations.EncodedBytesAreLeadAndSlices : Prop :=
  ∀ (t : Tier) (cp : CodePoint) (s : State), encInRange t cp = true →
    ∃ out : Packed,
      exec (t.encCase cp) s = .next { s with encOutputs := some ⟨0#2, BitVec.ofNat 3 t.bytes, out⟩ } ∧
      (t = .t1 → (seqByte t.bytes out 0).setWidth 32 = cp) ∧
      (t ≠ .t1 →
        seqByte t.bytes out 0 = (cp.extractLsb' (6 * (t.bytes - 1)) (7 - t.bytes)).setWidth 8 ||| t.tag ∧
        (seqByte t.bytes out 0).setWidth 32 = cp >>> (6 * (t.bytes - 1)) ||| t.tag.setWidth 32) ∧
      (∀ k, 1 ≤ k → k < t.bytes →
        seqByte t.bytes out k = (cp.extractLsb' (6 * (t.bytes - 1 - k)) 6).setWidth 8 ||| 0x80#8) ∧
      (∀ j, t.bytes ≤ j → byteLane out j = 0#8)

/-- Rule R109: the shape of every successful output, and that it lies inside the same tier's decoder range. -/
def Obligations.EncoderOutputShape : Prop :=
  ∀ (t : Tier) (cp : CodePoint) (s : State), encInRange t cp = true →
    ∃ o, observeEnc cp s = some o ∧ o.status = 0#2 ∧ o.len.toNat = t.bytes ∧
      (t ≠ .t1 → t.tag ≤ seqByte t.bytes o.out 0 ∧ seqByte t.bytes o.out 0 ≤ t.tag ||| t.lmask) ∧
      (t = .t1 → seqByte t.bytes o.out 0 ≤ 0x7F#8) ∧
      (∀ k, 1 ≤ k → k < t.bytes → 0x80#8 ≤ seqByte t.bytes o.out k ∧ seqByte t.bytes o.out k ≤ 0xBF#8) ∧
      o.out.toNat < 2 ^ (8 * t.bytes) ∧ t.decLo ≤ o.out ∧ o.out ≤ t.decHi

/-- Rule R110: only the shortest form is emitted: the payload is at least ENC_LO(n), no overlong form of 0xC080 to 0xC1BF
or 0xE08080 to 0xE09FBF comes out, and no accepted pattern of the same code point is shorter. -/
def Obligations.EncoderEmitsOnlyTheShortestForm : Prop :=
  ∀ (cp : CodePoint) (s : State) (o : EncOutputs), cp ≤ Config.cpMax → observeEnc cp s = some o →
    (∀ t, encInRange t cp = true → t.encLo.toNat ≤ decodeValue t o.out.toNat) ∧
    ¬(0xC080#48 ≤ o.out ∧ o.out ≤ 0xC1BF#48) ∧ ¬(0xE08080#48 ≤ o.out ∧ o.out ≤ 0xE09FBF#48) ∧
    (∀ (p : Packed) (m : Len), observeDec p s = some ⟨0#2, m, cp⟩ → o.len ≤ m)

/-- Rule R111: no code point in [0, 0x7FFFFFFF] is excluded, surrogates and values above 0x10FFFF included: each is
encoded by its tier's rule. -/
def Obligations.EncoderExcludesNoCodePointInRange : Prop :=
  ∀ (cp : CodePoint) (s : State), cp ≤ Config.cpMax →
    ∃ o t, observeEnc cp s = some o ∧ o.status = 0#2 ∧ encInRange t cp = true ∧ o.len.toNat = t.bytes ∧
      exec (selectEnc cp) s = exec (t.encCase cp) s

/-- Rule R113: the tier boundaries are exact. -/
def Obligations.EncoderTierBoundariesAreExact : Prop :=
  ∀ s : State, ∀ b ∈ [(0x7F#32, 1#3), (0x7FF#32, 2#3), (0xFFFF#32, 3#3), (0x1FFFFF#32, 4#3), (0x3FFFFFF#32, 5#3)],
    (observeEnc b.1 s).map (·.len) = some b.2 ∧ (observeEnc (b.1 + 1#32) s).map (·.len) = some (b.2 + 1#3)

/-! ### The decoder channel: each case -/

/-- Rule R141, DEC.T1. -/
def Obligations.DecTier1IsTheValueItself : Prop :=
  (∀ p : Packed,
    (selectDec false p = .decT1 p ↔ 0x00#48 ≤ p ∧ p ≤ 0x7F#48) ∧ (selectDec false p = .decT1 p ↔ p.extractLsb' 7 41 = 0#41) ∧
    ∀ strict, (selectDec strict p = .decT1 p ↔ p &&& 0xFFFFFFFFFF80#48 = 0#48)) ∧
  (∀ (p : Packed) (s : State), exec (.decT1 p) s =
    .next { s with decOutputs := some ⟨0#2, 1#3, (p.extractLsb' 0 7).setWidth 32⟩ }) ∧
  (∀ s : State, observeDec 0x00#48 s = some ⟨0#2, 1#3, 0x00#32⟩ ∧ observeDec 0x7F#48 s = some ⟨0#2, 1#3, 0x7F#32⟩ ∧
    observeDec 0x41#48 s = some ⟨0#2, 1#3, 0x41#32⟩ ∧ observeDec 0x80#48 s = some ⟨2#2, 0#3, 0#32⟩ ∧
    ∀ bs : List Byte, bs.length ≤ 5 →
      observeDec (packBytes (0x00#8 :: bs)) s = observeDec (packBytes bs) s)

/-- Rule R142, DEC.T2: `{b_0[4:0], b_1[5:0]}`. -/
def Obligations.DecTier2UnpacksTwoBytes : Prop :=
  (∀ p : Packed,
    (selectDec false p = .decT2 p ↔ 0xC080#48 ≤ p ∧ p ≤ 0xDFBF#48) ∧
    (selectDec false p = .decT2 p → p &&& 0xFFFFFFFFE000#48 = 0xC000#48) ∧
    (selectDec true p = .decT2 p ↔ p &&& 0xFFFFFFFFE0C0#48 = 0xC080#48)) ∧
  (∀ (p : Packed) (s : State), (s.build.decStrictCont = true → p.extractLsb' 6 2 = 0b10#2) →
    exec (.decT2 p) s = .next { s with decOutputs := some ⟨0#2, 2#3,
      (p.extractLsb' 8 5 ++ p.extractLsb' 0 6).setWidth 32⟩ } ∧
    (p.extractLsb' 8 5 ++ p.extractLsb' 0 6).setWidth 32 ≤ 0x7FF#32) ∧
  (∀ (p : Packed) (s : State), s.build.decStrictCont = true → p.extractLsb' 6 2 ≠ 0b10#2 →
    exec (.decT2 p) s = .next { s with decOutputs := some ⟨2#2, 0#3, 0#32⟩ }) ∧
  (∀ s : State,
    observeDec 0xC280#48 s = some ⟨0#2, 2#3, 0x80#32⟩ ∧ observeDec 0xC080#48 s = some ⟨0#2, 2#3, 0x00#32⟩ ∧
    observeDec 0xC1BF#48 s = some ⟨0#2, 2#3, 0x7F#32⟩ ∧ observeDec 0xC07F#48 s = some ⟨2#2, 0#3, 0#32⟩ ∧
    observeDec 0xDFC0#48 s = some ⟨2#2, 0#3, 0#32⟩ ∧
    (s.build.decStrictCont = false →
      observeDec 0xC0C1#48 s = some ⟨0#2, 2#3, 0x01#32⟩ ∧ observeDec 0xC100#48 s = some ⟨0#2, 2#3, 0x40#32⟩ ∧
      observeDec 0xDF00#48 s = some ⟨0#2, 2#3, 0x7C0#32⟩) ∧
    (s.build.decStrictCont = true → ∀ p ∈ [0xC0C1#48, 0xC100#48, 0xDF00#48],
      observeDec p s = some ⟨2#2, 0#3, 0#32⟩))

/-- Rule R143, DEC.T3. -/
def Obligations.DecTier3UnpacksThreeBytes : Prop :=
  (∀ p : Packed,
    (selectDec false p = .decT3 p ↔ 0xE08080#48 ≤ p ∧ p ≤ 0xEFBFBF#48) ∧
    (selectDec false p = .decT3 p → p &&& 0xFFFFFFF00000#48 = 0xE00000#48) ∧
    (selectDec true p = .decT3 p ↔ p &&& 0xFFFFFFF0C0C0#48 = 0xE08080#48)) ∧
  (∀ (p : Packed) (s : State),
    (s.build.decStrictCont = true → p.extractLsb' 14 2 = 0b10#2 ∧ p.extractLsb' 6 2 = 0b10#2) →
    exec (.decT3 p) s = .next { s with decOutputs := some ⟨0#2, 3#3,
      (p.extractLsb' 16 4 ++ p.extractLsb' 8 6 ++ p.extractLsb' 0 6).setWidth 32⟩ } ∧
    (p.extractLsb' 16 4 ++ p.extractLsb' 8 6 ++ p.extractLsb' 0 6).setWidth 32 ≤ 0xFFFF#32) ∧
  (∀ (p : Packed) (s : State), s.build.decStrictCont = true →
    (p.extractLsb' 14 2 ≠ 0b10#2 ∨ p.extractLsb' 6 2 ≠ 0b10#2) →
    exec (.decT3 p) s = .next { s with decOutputs := some ⟨2#2, 0#3, 0#32⟩ }) ∧
  (∀ s : State,
    observeDec 0xE282AC#48 s = some ⟨0#2, 3#3, 0x20AC#32⟩ ∧ observeDec 0xE08080#48 s = some ⟨0#2, 3#3, 0x0000#32⟩ ∧
    observeDec 0xEDA080#48 s = some ⟨0#2, 3#3, 0xD800#32⟩ ∧ observeDec 0xE0807F#48 s = some ⟨2#2, 0#3, 0#32⟩ ∧
    observeDec 0xEFBFC0#48 s = some ⟨2#2, 0#3, 0#32⟩ ∧
    (s.build.decStrictCont = false → observeDec 0xE10000#48 s = some ⟨0#2, 3#3, 0x1000#32⟩))

/-- Rule R144, DEC.T4. -/
def Obligations.DecTier4UnpacksFourBytes : Prop :=
  (∀ p : Packed,
    (selectDec false p = .decT4 p ↔ 0xF0808080#48 ≤ p ∧ p ≤ 0xF7BFBFBF#48) ∧
    (selectDec false p = .decT4 p → p &&& 0xFFFFF8000000#48 = 0xF0000000#48) ∧
    (selectDec true p = .decT4 p ↔ p &&& 0xFFFFF8C0C0C0#48 = 0xF0808080#48)) ∧
  (∀ (p : Packed) (s : State),
    (s.build.decStrictCont = true → ∀ k, k < 3 → p.extractLsb' (8 * k + 6) 2 = 0b10#2) →
    exec (.decT4 p) s = .next { s with decOutputs := some ⟨0#2, 4#3,
      (p.extractLsb' 24 3 ++ p.extractLsb' 16 6 ++ p.extractLsb' 8 6 ++ p.extractLsb' 0 6).setWidth 32⟩ } ∧
    (p.extractLsb' 24 3 ++ p.extractLsb' 16 6 ++ p.extractLsb' 8 6 ++ p.extractLsb' 0 6).setWidth 32 ≤ 0x1FFFFF#32) ∧
  (∀ (p : Packed) (s : State), s.build.decStrictCont = true →
    (∃ k, k < 3 ∧ p.extractLsb' (8 * k + 6) 2 ≠ 0b10#2) →
    exec (.decT4 p) s = .next { s with decOutputs := some ⟨2#2, 0#3, 0#32⟩ }) ∧
  (∀ s : State,
    observeDec 0xF09F9880#48 s = some ⟨0#2, 4#3, 0x1F600#32⟩ ∧ observeDec 0xF48FBFBF#48 s = some ⟨0#2, 4#3, 0x10FFFF#32⟩ ∧
    observeDec 0xF7BFBFBF#48 s = some ⟨0#2, 4#3, 0x1FFFFF#32⟩ ∧ observeDec 0xF0808080#48 s = some ⟨0#2, 4#3, 0#32⟩ ∧
    observeDec 0xF7BFBFC0#48 s = some ⟨2#2, 0#3, 0#32⟩)

/-- Rule R145, DEC.T5: P is compared and sliced exactly at 40 bits. -/
def Obligations.DecTier5UnpacksFiveBytes : Prop :=
  (∀ p : Packed,
    (selectDec false p = .decT5 p ↔ 0xF880808080#48 ≤ p ∧ p ≤ 0xFBBFBFBFBF#48) ∧
    (selectDec false p = .decT5 p → p &&& 0xFFFC00000000#48 = 0xF800000000#48) ∧
    (selectDec true p = .decT5 p ↔ p &&& 0xFFFCC0C0C0C0#48 = 0xF880808080#48)) ∧
  (∀ (p : Packed) (s : State),
    (s.build.decStrictCont = true → ∀ k, k < 4 → p.extractLsb' (8 * k + 6) 2 = 0b10#2) →
    exec (.decT5 p) s = .next { s with decOutputs := some ⟨0#2, 5#3,
      (p.extractLsb' 32 2 ++ p.extractLsb' 24 6 ++ p.extractLsb' 16 6 ++ p.extractLsb' 8 6 ++
        p.extractLsb' 0 6).setWidth 32⟩ } ∧
    (p.extractLsb' 32 2 ++ p.extractLsb' 24 6 ++ p.extractLsb' 16 6 ++ p.extractLsb' 8 6 ++
      p.extractLsb' 0 6).setWidth 32 ≤ 0x3FFFFFF#32) ∧
  (∀ (p : Packed) (s : State), s.build.decStrictCont = true →
    (∃ k, k < 4 ∧ p.extractLsb' (8 * k + 6) 2 ≠ 0b10#2) →
    exec (.decT5 p) s = .next { s with decOutputs := some ⟨2#2, 0#3, 0#32⟩ }) ∧
  (∀ s : State, observeDec 0xF888808080#48 s = some ⟨0#2, 5#3, 0x200000#32⟩ ∧
    observeDec 0xFBBFBFBFBF#48 s = some ⟨0#2, 5#3, 0x3FFFFFF#32⟩)

/-- Rule R146, DEC.T6: the code point has 31 bits, so `dec_cp[31]` = 0. -/
def Obligations.DecTier6UnpacksSixBytes : Prop :=
  (∀ p : Packed,
    (selectDec false p = .decT6 p ↔ 0xFC8080808080#48 ≤ p ∧ p ≤ 0xFDBFBFBFBFBF#48) ∧
    (selectDec false p = .decT6 p → p &&& 0xFE0000000000#48 = 0xFC0000000000#48) ∧
    (selectDec true p = .decT6 p ↔ p &&& 0xFEC0C0C0C0C0#48 = 0xFC8080808080#48)) ∧
  (∀ (p : Packed) (s : State),
    (s.build.decStrictCont = true → ∀ k, k < 5 → p.extractLsb' (8 * k + 6) 2 = 0b10#2) →
    exec (.decT6 p) s = .next { s with decOutputs := some ⟨0#2, 6#3,
      (p.extractLsb' 40 1 ++ p.extractLsb' 32 6 ++ p.extractLsb' 24 6 ++ p.extractLsb' 16 6 ++ p.extractLsb' 8 6 ++
        p.extractLsb' 0 6).setWidth 32⟩ } ∧
    (p.extractLsb' 40 1 ++ p.extractLsb' 32 6 ++ p.extractLsb' 24 6 ++ p.extractLsb' 16 6 ++ p.extractLsb' 8 6 ++
      p.extractLsb' 0 6).setWidth 32 ≤ 0x7FFFFFFF#32) ∧
  (∀ (p : Packed) (s : State), s.build.decStrictCont = true →
    (∃ k, k < 5 ∧ p.extractLsb' (8 * k + 6) 2 ≠ 0b10#2) →
    exec (.decT6 p) s = .next { s with decOutputs := some ⟨2#2, 0#3, 0#32⟩ }) ∧
  (∀ s : State, observeDec 0xFDBFBFBFBFBF#48 s = some ⟨0#2, 6#3, 0x7FFFFFFF#32⟩ ∧
    observeDec 0xFC8480808080#48 s = some ⟨0#2, 6#3, 0x4000000#32⟩ ∧
    observeDec 0xFDBFBFBFBFC0#48 s = some ⟨2#2, 0#3, 0#32⟩ ∧
    ∀ p : Packed, 0xFE0000000000#48 ≤ p → observeDec p s = some ⟨2#2, 0#3, 0#32⟩)

/-- Rule R147, DEC.ERR: the error form and nothing else, exactly for a P that matches no tier, or with STRICT fails the
continuation check; and the listed failing patterns. -/
def Obligations.DecErrorIsInvalidEncoding : Prop :=
  (∀ (strict : Bool) (p : Packed), selectDec strict p = .decErr p ↔
    (∀ t, decInRange t p = false) ∨
    (strict = true ∧ ∃ t k, decInRange t p = true ∧ 1 ≤ k ∧ k < t.bytes ∧
      (seqByte t.bytes p k).extractLsb' 6 2 ≠ 0b10#2)) ∧
  (∀ (strict : Bool) (p : Packed), selectDec strict p = .decErr p ↔ ∀ t : Tier, selectDec strict p ≠ t.decCase p) ∧
  (∀ (p : Packed) (s : State),
    exec (.decErr p) s = .next { s with decOutputs := some ⟨2#2, 0#3, 0#32⟩ }) ∧
  (∀ (p : Packed) (s : State),
    (0x80#48 ≤ p ∧ p ≤ 0xBF#48) ∨ (0xC0#48 ≤ p ∧ p ≤ 0xFF#48) ∨ p = 0xE282#48 ∨
      byteLane p 5 = 0xFE#8 ∨ byteLane p 5 = 0xFF#8 →
    observeDec p s = some ⟨2#2, 0#3, 0#32⟩) ∧
  (∀ s : State, observeDec 0x00#48 s = some ⟨0#2, 1#3, 0#32⟩ ∧ observeDec 0xC080#48 s = some ⟨0#2, 2#3, 0#32⟩)

/-! ### The decoder channel: the whole -/

/-- Rule R140: the case that the range match selects writes DECODE(P) on the three outputs at once, and nothing else,
from every state of either build. -/
def Obligations.DecoderCasesComputeDecode : Prop :=
  ∀ (p : Packed) (s : State),
    exec (selectDec s.build.decStrictCont p) s =
      .next { s with decOutputs := some (channelDecode s.build.decStrictCont p) }

/-- Rules R75 and R149: every bit of the code point comes from the bit of P that the tag/mask extractor routes to it, and
the result has no other bit: 7 bits for tier 1, 5n+1 bits for tier n ≥ 2; it may be below ENC_LO(n), as 0xC080 shows. -/
def Obligations.DecodedBitsComeFromTheirPayloads : Prop :=
  (∀ (t : Tier) (p : Packed) (s : State), decSelects s.build.decStrictCont t p = true →
    ∃ cp : CodePoint,
      exec (t.decCase p) s = .next { s with decOutputs := some ⟨0#2, BitVec.ofNat 3 t.bytes, cp⟩ } ∧
      (t = .t1 → cp = p.setWidth 32) ∧
      (t ≠ .t1 →
        (∀ m i, m < t.bytes - 1 → i < 6 → cp.getLsbD (6 * m + i) = p.getLsbD (8 * m + i)) ∧
        (∀ i, i < 7 - t.bytes →
          cp.getLsbD (6 * (t.bytes - 1) + i) = p.getLsbD (8 * (t.bytes - 1) + i))) ∧
      cp.toNat < 2 ^ (if t = .t1 then 7 else 5 * t.bytes + 1) ∧ cp ≤ Config.cpMax) ∧
  (∀ s : State, observeDec 0xC080#48 s = some ⟨0#2, 2#3, 0#32⟩ ∧ 0#32 < Tier.t2.encLo)

/-- Rule R148: under STRICT an in-range pattern with a bad continuation byte gives `InvalidEncoding` whether the tier's
own case runs its check or the selection has already sent it to DEC.ERR; without one both give the same success; and
without STRICT nothing is checked. -/
def Obligations.StrictCheckAfterRangeSelection : Prop :=
  ∀ (t : Tier) (p : Packed) (s : State), decInRange t p = true →
    exec (t.decCase p) s = exec (selectDec s.build.decStrictCont p) s ∧
    (s.build.decStrictCont = true →
      ((∃ k, 1 ≤ k ∧ k < t.bytes ∧ (seqByte t.bytes p k).extractLsb' 6 2 ≠ 0b10#2) ↔
        exec (t.decCase p) s = .next { s with decOutputs := some ⟨2#2, 0#3, 0#32⟩ })) ∧
    (s.build.decStrictCont = false → ∃ cp,
      exec (t.decCase p) s = .next { s with decOutputs := some ⟨0#2, BitVec.ofNat 3 t.bytes, cp⟩ })

/-- Spec 95, section 4: the strict build only adds a failure: what it accepts, the permissive build accepts with the same
result. -/
def Obligations.StrictAcceptsNothingNew : Prop :=
  ∀ (p : Packed) (s u : State) (o : DecOutputs), s.build.decStrictCont = true → u.build.decStrictCont = false →
    observeDec p s = some o → o.status = 0#2 → observeDec p u = some o

/-- Rule R153: nothing but the range, and with STRICT the continuation bytes, can make a pattern fail. -/
def Obligations.DecoderMakesNoOtherCheck : Prop :=
  ∀ (t : Tier) (p : Packed) (s : State), decInRange t p = true →
    (s.build.decStrictCont = true → ∀ k, 1 ≤ k → k < t.bytes → (seqByte t.bytes p k).extractLsb' 6 2 = 0b10#2) →
    ∃ cp, observeDec p s = some ⟨0#2, BitVec.ofNat 3 t.bytes, cp⟩

/-- Rule R79: every P that the build's selection lets in decodes without error (the permissive build: every in-range P),
and two kinds of accepted non-canonical pattern occur: an overlong form, whose code point fits a shorter tier, and one
with a continuation position not of the form `10xxxxxx`, which the strict build does not accept. -/
def Obligations.AcceptedNonCanonicalPatternsAreOfTwoKinds : Prop :=
  (∀ (t : Tier) (p : Packed) (s : State), decSelects s.build.decStrictCont t p = true →
    ∃ cp, observeDec p s = some ⟨0#2, BitVec.ofNat 3 t.bytes, cp⟩) ∧
  (∀ (t : Tier) (p : Packed), decSelects false t p = decInRange t p) ∧
  (∀ (p : Packed) (s : State) (t : Tier) (cp : CodePoint),
    observeDec p s = some ⟨0#2, BitVec.ofNat 3 t.bytes, cp⟩ →
    (observeEnc cp s).map (·.out) ≠ some p →
    cp < t.encLo ∨
    (s.build.decStrictCont = false ∧
      ∃ k, 1 ≤ k ∧ k < t.bytes ∧ (seqByte t.bytes p k).extractLsb' 6 2 ≠ 0b10#2)) ∧
  (∀ s : State, observeDec 0xC080#48 s = some ⟨0#2, 2#3, 0x00#32⟩) ∧
  (∀ s : State, s.build.decStrictCont = false → observeDec 0xC100#48 s = some ⟨0#2, 2#3, 0x40#32⟩)

/-- Rule R47: every value of either port is a legal presentation, and 0xC28000 is no shifted 0xC280 but a pattern in no
range. -/
def Obligations.EveryPresentationCompletes : Prop :=
  (∀ (pr : Presentation) (s : State), ∃ t, evaluate pr s = .next t) ∧
  (∀ s : State, observeDec 0xC28000#48 s = some ⟨2#2, 0#3, 0#32⟩)

/-! ### Laws of the two channels together -/

/-- Rule R150, the round trip, in both builds: decoding what was encoded gives the code point and its length back. -/
def Obligations.DecodingAnEncodedCodePointGivesItBack : Prop :=
  ∀ (cp : CodePoint) (s : State), cp ≤ Config.cpMax →
    ∃ n out t u, evaluate (.enc cp) s = .next t ∧ t.encOutputs = some ⟨0#2, n, out⟩ ∧
      evaluate (.dec out) t = .next u ∧ u.decOutputs = some ⟨0#2, n, cp⟩ ∧ u.encOutputs = some ⟨0#2, n, out⟩

/-- Rule R151: the reverse composition gives P back exactly when P is in the image of ENCODE, and DECODE is not
injective: six patterns decode to 0 in both builds, of which only 0x00 is canonical; the permissive build also accepts
0xC0C1, which no code point encodes to. -/
def Obligations.EncodingADecodedPatternOnlyOnCanonicalInputs : Prop :=
  (∀ (p : Packed) (s : State) (n : Len) (cp : CodePoint), observeDec p s = some ⟨0#2, n, cp⟩ →
    ((observeEnc cp s).map (·.out) = some p ↔
      ∃ c, c ≤ Config.cpMax ∧ (observeEnc c s).map (·.out) = some p)) ∧
  (∀ (s : State), ∀ p ∈ [0x00#48, 0xC080#48, 0xE08080#48, 0xF0808080#48, 0xF880808080#48, 0xFC8080808080#48],
    (observeDec p s).map (fun o => (o.status, o.cp)) = some (0#2, 0#32) ∧
    ((∃ c, c ≤ Config.cpMax ∧ (observeEnc c s).map (·.out) = some p) ↔ p = 0x00#48)) ∧
  (∀ s : State, s.build.decStrictCont = false → observeDec 0xC0C1#48 s = some ⟨0#2, 2#3, 0x01#32⟩ ∧
    ¬∃ c, c ≤ Config.cpMax ∧ (observeEnc c s).map (·.out) = some 0xC0C1#48)

/-- Spec 95, program 3: a proper prefix of a canonical sequence, packed as a `DECB`, is accepted in neither build. -/
def Obligations.ProperPrefixOfACanonicalSequenceIsRejected : Prop :=
  ∀ (cp : CodePoint) (s : State) (n : Len) (out : Packed) (m : Nat),
    observeEnc cp s = some ⟨0#2, n, out⟩ → 1 ≤ m → m < n.toNat →
    observeDec (packBytes ((laneBytes n.toNat out).take m)) s = some ⟨2#2, 0#3, 0#32⟩

/-! ### Independence, frames and purity -/

/-- Rules R26 and R28: an ENC case answers a next state from every state and on every operand, and writes nothing but the
ENC outputs: the DEC outputs, both inputs, the build and the host's list are as before. -/
def Obligations.EncoderCasesWriteOnlyTheirOutputs : Prop :=
  ∀ (i : Instr) (s : State), isEncCase i = true →
    ∃ t, exec i s = .next t ∧ t.decOutputs = s.decOutputs ∧ t.decIn = s.decIn ∧ t.encCp = s.encCp ∧
      t.build = s.build ∧ t.script = s.script ∧
      ∀ u : State, ∃ v, exec i u = .next v ∧ v.encOutputs = t.encOutputs

/-- Rules R26 and R28 for the DEC cases; their outputs may depend on the build and on no other part of the state. -/
def Obligations.DecoderCasesWriteOnlyTheirOutputs : Prop :=
  ∀ (i : Instr) (s : State), isEncCase i = false →
    ∃ t, exec i s = .next t ∧ t.encOutputs = s.encOutputs ∧ t.encCp = s.encCp ∧ t.decIn = s.decIn ∧
      t.build = s.build ∧ t.script = s.script ∧
      ∀ u : State, u.build = s.build → ∃ v, exec i u = .next v ∧ v.decOutputs = t.decOutputs

/-- Rule R27: the channels are independent. An ENC case and a DEC case run in either order give the same state, driving
both ports at once gives each channel what driving its own port alone gives, and the law vector of spec 95. -/
def Obligations.ChannelsAreIndependent : Prop :=
  (∀ (i j : Instr) (s : State), isEncCase i = true → isEncCase j = false → runCases [i, j] s = runCases [j, i] s) ∧
  (∀ (cp : CodePoint) (p : Packed) (s : State), ∃ t, evaluate (.both cp p) s = .next t ∧
    t.encOutputs = observeEnc cp s ∧ t.decOutputs = observeDec p s) ∧
  (∀ s : State, ∃ t, evaluate (.both 0x80000000#32 0xC280#48) s = .next t ∧
    t.encOutputs.map (·.status) = some 1#2 ∧ t.decOutputs = some ⟨0#2, 2#3, 0x80#32⟩)

/-- Rules R112, R152 and R207: an evaluation depends on its own input and the build alone, whatever came before, an error
included. -/
def Obligations.EvaluationsForgetThePast : Prop :=
  (∀ (cp : CodePoint) (s u : State), observeEnc cp s = observeEnc cp u) ∧
  (∀ (p : Packed) (s u : State), s.build = u.build → observeDec p s = observeDec p u)

/-- Rule R49: an evaluation changes only its own ports, and evaluating the same input again changes nothing. -/
def Obligations.EvaluationIsIdempotent : Prop :=
  ∀ (pr : Presentation) (s t : State), evaluate pr s = .next t →
    evaluate pr t = .next t ∧ t.build = s.build ∧ t.script = s.script ∧
    (encValue pr = none → t.encCp = s.encCp ∧ t.encOutputs = s.encOutputs) ∧
    (decValue pr = none → t.decIn = s.decIn ∧ t.decOutputs = s.decOutputs)

/-! ### Errors as results -/

/-- Rules R203 and R205: a channel's status says whether it succeeded: ENC drives 0 or 1 and DEC 0 or 2, an error carries
zero length and data, a length of 0 marks the error, and data of 0 alone does not: ENC 0 and DEC 0 succeed with it. -/
def Obligations.StatusCodesAndErrorForms : Prop :=
  (∀ (cp : CodePoint) (s : State), ∃ o, observeEnc cp s = some o ∧
    (o.status = 0#2 ∨ o.status = 1#2) ∧ (o.status = 1#2 ↔ Config.cpMax < cp) ∧
    (o.status = 1#2 ↔ o.len = 0#3) ∧ (o.status = 1#2 → o.out = 0#48)) ∧
  (∀ (p : Packed) (s : State), ∃ o, observeDec p s = some o ∧
    (o.status = 0#2 ∨ o.status = 2#2) ∧ (o.status = 2#2 ↔ selectDec s.build.decStrictCont p = .decErr p) ∧
    (o.status = 2#2 ↔ o.len = 0#3) ∧ (o.status = 2#2 → o.cp = 0#32)) ∧
  (∀ s : State, observeEnc 0x00#32 s = some ⟨0#2, 1#3, 0#48⟩ ∧ observeDec 0x00#48 s = some ⟨0#2, 1#3, 0#32⟩)

/-! ### The step -/

/-- The step runs the case that the host's next presentation selects: it takes the presentation off the host's list,
drives the ports it names, and is `exec` of the selected case; for both ports the DEC case after the ENC case; with
nothing left to present it holds. The host's list, the holding and the two cases in one step are the model's
(notes/assumptions/2.md, 3.md and 7.md). -/
def Obligations.StepRunsTheSelectedCase : Prop :=
  (∀ (s : State) (i : Instr) (rest : List Presentation), i.wf s.build.decStrictCont = true →
    s.script = encode i :: rest → step s = exec i (State.drive (encode i) { s with script := rest })) ∧
  (∀ (s : State) (cp : CodePoint) (p : Packed) (rest : List Presentation), s.script = .both cp p :: rest →
    ∃ t, exec (selectEnc cp) { s with script := rest, encCp := some cp, decIn := some p } = .next t ∧
      step s = exec (selectDec s.build.decStrictCont p) t) ∧
  (∀ s : State, s.script = [] → step s = .next s)

/-- A table row's word stored by `withFetchWord` is what the very next step presents, and that step is the evaluation of
the port it drives (rules R26, R60). That `withFetchWord` stands for loading a program, and that the next step runs what
it loaded, is the model's choice (notes/assumptions/3.md, DESIGN CHOICE); so is the reading of a row's width as its port
(notes/assumptions/5.md, DESIGN CHOICE). -/
def Obligations.StoredTableWordRunsNext : Prop :=
  (∀ (s : State) (w : Nat) (h : w < 2 ^ 32),
    step (s.withFetchWord 32 w) = exec (selectEnc (BitVec.ofNatLT w h)) { s with encCp := some (BitVec.ofNatLT w h) }) ∧
  (∀ (s : State) (w : Nat) (h : w < 2 ^ 48),
    step (s.withFetchWord 48 w) =
      exec (selectDec s.build.decStrictCont (BitVec.ofNatLT w h)) { s with decIn := some (BitVec.ofNatLT w h) })

/-- Rules R6, R29 and R231: after reset no input is driven and nothing is observed, the build keeps its value, and the
first evaluation already gives the function values. That an undriven port holds `none` is the model's reading
(notes/assumptions/1.md, DEDUCED), and that State.reset is the reference build is its choice
(notes/assumptions/4.md, DESIGN CHOICE, the value from rules R3 and R6). -/
def Obligations.ResetHasNoObservationAndNoWarmUp : Prop :=
  (∀ c : Config, (State.resetOf c).build = c ∧
    (State.resetOf c).encCp = none ∧ (State.resetOf c).encOutputs = none ∧
    (State.resetOf c).decIn = none ∧ (State.resetOf c).decOutputs = none) ∧
  State.reset = State.resetOf { decStrictCont := false } ∧
  (∀ (c : Config) (cp : CodePoint), observeEnc cp (State.resetOf c) = some (channelEncode cp)) ∧
  (∀ (c : Config) (p : Packed), observeDec p (State.resetOf c) = some (channelDecode c.decStrictCont p))

/-- Rules R26, R203 and R231 at reset: with no input driven nothing is observed (notes/assumptions/1.md), so the outputs
follow the inputs and no triple of another form stands on a port. -/
def Obligations.OutputInvariantsHoldAtReset : Prop :=
  ∀ c : Config, (State.resetOf c).OutputsFollowInputs ∧ (State.resetOf c).OutputsLegal

/-- Rule R26 as an invariant: in every state where the outputs follow the inputs, a step leaves them following. That the
outputs of a held input stay in State is the model's reading (notes/assumptions/1.md and 3.md). -/
def Obligations.StepKeepsOutputsFollowingInputs : Prop :=
  ∀ s t : State, s.OutputsFollowInputs → Sys2Proof.Machine.step s = .next t → t.OutputsFollowInputs

/-- Rules R24, R25, R63, R64, R203 and R205 as an invariant: where every triple on the ports has the form of those rules, a
step leaves it so: status 0 with length 1 to 6, `enc_out` zero from bit 8·`enc_len` up and `dec_cp` at most 0x7FFFFFFF,
or the channel's own error form. -/
def Obligations.StepKeepsOutputsLegal : Prop :=
  ∀ s t : State, s.OutputsLegal → Sys2Proof.Machine.step s = .next t → t.OutputsLegal

/-- Rules R23 and R232: the build parameter never changes. -/
def Obligations.BuildParameterNeverChanges : Prop :=
  ∀ s t : State, Sys2Proof.Machine.step s = .next t → t.build = s.build

/-! ### Whole runs -/

/-- Rules R26, R27 and R51 over a whole run of the host's list, from any state: each port holds the last value driven on
it, its outputs are the function's value of that, and a port that was never driven is as before. The host's list is the
model's (notes/assumptions/2.md). -/
def Obligations.RunLeavesEachPortItsLastInput : Prop :=
  ∀ s : State, ∃ t,
    Host.Core.run Sys2Proof.core s.script.length s = .next t ∧ t.build = s.build ∧ t.script = [] ∧
    (match (s.script.filterMap encValue).getLast? with
      | some cp => t.encCp = some cp ∧ t.encOutputs = some (channelEncode cp)
      | none => t.encCp = s.encCp ∧ t.encOutputs = s.encOutputs) ∧
    (match (s.script.filterMap decValue).getLast? with
      | some p => t.decIn = some p ∧ t.decOutputs = some (channelDecode s.build.decStrictCont p)
      | none => t.decIn = s.decIn ∧ t.decOutputs = s.decOutputs)

/-- Rule R51: any interleaving of the two channels' evaluations, at once or one by one, gives the same result. The host's
list and the presentation of both ports in one step are the model's (notes/assumptions/2.md and 7.md). -/
def Obligations.InterleavingsGiveTheSameResult : Prop :=
  ∀ (s : State) (l m : List Presentation),
    l.filterMap encValue = m.filterMap encValue → l.filterMap decValue = m.filterMap decValue →
    Host.Core.run Sys2Proof.core l.length { s with script := l } =
      Host.Core.run Sys2Proof.core m.length { s with script := m }

/-- Rules R200, R204 and R209: every step of every state of either build answers a next state, and so does every run of
every length: no fault, abort or refusal exists. -/
def Obligations.EveryStepAndRunAnswersANextState : Prop :=
  (∀ s : State, ∃ t, Sys2Proof.Machine.step s = .next t) ∧ (∀ (n : Nat) (s : State), SafeRun n s)
end

