-- ==== Sys2Proof/Laws/State.lean ====
section
/-!
SUPPORT. The small lemmas of State: one for each field of each update, each true by rfl.
-/
namespace Sys2Proof.Machine

open Sys2Proof

section
variable (s : State) (cp : CodePoint) (p : Packed) (pr : Presentation) (e : EncOutputs) (d : DecOutputs)

@[simp] theorem driveEnc_build : (s.driveEnc cp).build = s.build := rfl
@[simp] theorem driveEnc_encCp : (s.driveEnc cp).encCp = some cp := rfl
@[simp] theorem driveEnc_encOutputs : (s.driveEnc cp).encOutputs = s.encOutputs := rfl
@[simp] theorem driveEnc_decIn : (s.driveEnc cp).decIn = s.decIn := rfl
@[simp] theorem driveEnc_decOutputs : (s.driveEnc cp).decOutputs = s.decOutputs := rfl
@[simp] theorem driveEnc_script : (s.driveEnc cp).script = s.script := rfl

@[simp] theorem driveDec_build : (s.driveDec p).build = s.build := rfl
@[simp] theorem driveDec_encCp : (s.driveDec p).encCp = s.encCp := rfl
@[simp] theorem driveDec_encOutputs : (s.driveDec p).encOutputs = s.encOutputs := rfl
@[simp] theorem driveDec_decIn : (s.driveDec p).decIn = some p := rfl
@[simp] theorem driveDec_decOutputs : (s.driveDec p).decOutputs = s.decOutputs := rfl
@[simp] theorem driveDec_script : (s.driveDec p).script = s.script := rfl

@[simp] theorem drive_enc : s.drive (.enc cp) = s.driveEnc cp := rfl
@[simp] theorem drive_dec : s.drive (.dec p) = s.driveDec p := rfl
@[simp] theorem drive_both : s.drive (.both cp p) = (s.driveEnc cp).driveDec p := rfl

@[simp] theorem setEnc_build : (s.setEnc e).build = s.build := rfl
@[simp] theorem setEnc_encCp : (s.setEnc e).encCp = s.encCp := rfl
@[simp] theorem setEnc_encOutputs : (s.setEnc e).encOutputs = some e := rfl
@[simp] theorem setEnc_decIn : (s.setEnc e).decIn = s.decIn := rfl
@[simp] theorem setEnc_decOutputs : (s.setEnc e).decOutputs = s.decOutputs := rfl
@[simp] theorem setEnc_script : (s.setEnc e).script = s.script := rfl

@[simp] theorem setDec_build : (s.setDec d).build = s.build := rfl
@[simp] theorem setDec_encCp : (s.setDec d).encCp = s.encCp := rfl
@[simp] theorem setDec_encOutputs : (s.setDec d).encOutputs = s.encOutputs := rfl
@[simp] theorem setDec_decIn : (s.setDec d).decIn = s.decIn := rfl
@[simp] theorem setDec_decOutputs : (s.setDec d).decOutputs = some d := rfl
@[simp] theorem setDec_script : (s.setDec d).script = s.script := rfl

@[simp] theorem presentNext_build : (presentNext pr s).build = s.build := rfl
@[simp] theorem presentNext_encCp : (presentNext pr s).encCp = s.encCp := rfl
@[simp] theorem presentNext_encOutputs : (presentNext pr s).encOutputs = s.encOutputs := rfl
@[simp] theorem presentNext_decIn : (presentNext pr s).decIn = s.decIn := rfl
@[simp] theorem presentNext_decOutputs : (presentNext pr s).decOutputs = s.decOutputs := rfl
@[simp] theorem presentNext_script : (presentNext pr s).script = pr :: s.script := rfl

@[simp] theorem returnEnc_eq (n : Nat) (out : Packed) : returnEnc n out s = s.setEnc (encOk n out) := rfl
@[simp] theorem returnDec_eq (n : Nat) (c : CodePoint) : returnDec n c s = s.setDec (decOk n c) := rfl
@[simp] theorem raiseInvalidCodepoint_eq : raiseInvalidCodepoint s = s.setEnc encError := rfl
@[simp] theorem raiseInvalidEncoding_eq : raiseInvalidEncoding s = s.setDec decError := rfl

/-- The two channels' updates touch different fields, so they commute (rule R27). -/
theorem setEnc_setDec_comm : (s.setEnc e).setDec d = (s.setDec d).setEnc e := rfl

end

section
variable (c : Config)

@[simp] theorem resetOf_build : (State.resetOf c).build = c := rfl
@[simp] theorem resetOf_encCp : (State.resetOf c).encCp = none := rfl
@[simp] theorem resetOf_encOutputs : (State.resetOf c).encOutputs = none := rfl
@[simp] theorem resetOf_decIn : (State.resetOf c).decIn = none := rfl
@[simp] theorem resetOf_decOutputs : (State.resetOf c).decOutputs = none := rfl
@[simp] theorem resetOf_script : (State.resetOf c).script = [] := rfl

end

end Sys2Proof.Machine
end

