-- ==== Sys2Proof/Laws/Exec.lean ====
section
/-!
SUPPORT. What a case, an evaluation and a step can do, each said once: a case writes the outputs of its own channel and
nothing else; an evaluation drives the ports its presentation names and runs the cases it selects; a step is one
evaluation, or holds.
-/
namespace Sys2Proof.Machine

open Sys2Proof

/-- Every delivery of a DEC case of tier n ≥ 2 writes one DEC triple. -/
theorem finishDec_eq (t : Tier) (p : Packed) (cp : CodePoint) (s : State) :
    finishDec t p cp s =
      s.setDec (if s.build.decStrictCont && !(contBytes t p).all isContinuation then decError
        else decOk t.bytes cp) := by
  unfold finishDec raiseInvalidEncoding returnDec
  split <;> rfl

/-- An ENC case writes one ENC triple, whatever the state held. -/
theorem exec_isEnc (i : Instr) (h : isEncCase i = true) : ∃ o, ∀ s, exec i s = .next (s.setEnc o) := by
  cases i <;> first | exact ⟨_, fun _ => rfl⟩ | cases h

/-- A DEC case writes one DEC triple, which depends on the state's build alone. -/
theorem exec_isDec (i : Instr) (h : isEncCase i = false) :
    ∃ o : Config → DecOutputs, ∀ s, exec i s = .next (s.setDec (o s.build)) := by
  have tier (t : Tier) (p : Packed) (cp : CodePoint) :
      ∃ o : Config → DecOutputs, ∀ s,
        (Host.Outcome.next (finishDec t p cp s) : Host.Outcome State Fault Refusal) = .next (s.setDec (o s.build)) :=
    ⟨fun c => if c.decStrictCont && !(contBytes t p).all isContinuation then decError else decOk t.bytes cp,
      fun s => by rw [finishDec_eq]⟩
  cases i with
  | decT1 p => exact ⟨fun _ => decOk 1 _, fun _ => rfl⟩
  | decErr p => exact ⟨fun _ => decError, fun _ => rfl⟩
  | decT2 p => exact tier .t2 p _
  | decT3 p => exact tier .t3 p _
  | decT4 p => exact tier .t4 p _
  | decT5 p => exact tier .t5 p _
  | decT6 p => exact tier .t6 p _
  | _ => cases h

theorem isEncCase_selectEnc (cp : CodePoint) : isEncCase (selectEnc cp) = true := by
  unfold selectEnc
  repeat' split
  all_goals rfl

theorem isEncCase_selectDec (strict : Bool) (p : Packed) : isEncCase (selectDec strict p) = false := by
  unfold selectDec
  repeat' split
  all_goals rfl

theorem runCases_one (i : Instr) (s : State) : runCases [i] s = exec i s := by
  unfold runCases
  cases exec i s <;> rfl

theorem runCases_two (i j : Instr) (s t : State) (h : exec i s = .next t) : runCases [i, j] s = exec j t := by
  unfold runCases
  rw [h]
  exact runCases_one j t

theorem evaluate_enc (cp : CodePoint) (s : State) :
    evaluate (.enc cp) s = exec (selectEnc cp) (s.driveEnc cp) := runCases_one _ _

theorem evaluate_dec (p : Packed) (s : State) :
    evaluate (.dec p) s = exec (selectDec s.build.decStrictCont p) (s.driveDec p) := runCases_one _ _

/-- Driving both ports at once: the ENC triple and the DEC triple of the two cases, and nothing else (rule R27). -/
theorem evaluate_both (cp : CodePoint) (p : Packed) (s : State) :
    ∃ (o : EncOutputs) (d : Config → DecOutputs),
      (∀ u, exec (selectEnc cp) u = .next (u.setEnc o)) ∧
      (∀ u, exec (selectDec s.build.decStrictCont p) u = .next (u.setDec (d u.build))) ∧
      evaluate (.both cp p) s = .next ((((s.driveEnc cp).driveDec p).setEnc o).setDec (d s.build)) := by
  obtain ⟨o, ho⟩ := exec_isEnc (selectEnc cp) (isEncCase_selectEnc cp)
  obtain ⟨d, hd⟩ := exec_isDec (selectDec s.build.decStrictCont p) (isEncCase_selectDec _ p)
  exact ⟨o, d, ho, hd, (runCases_two _ _ _ _ (ho _)).trans (hd _)⟩

theorem step_nil (s : State) (h : s.script = []) : step s = .next s := by
  simp [step, takeNext, h]

theorem step_cons (s : State) (pr : Presentation) (rest : List Presentation) (h : s.script = pr :: rest) :
    step s = evaluate pr { s with script := rest } := by
  simp [step, takeNext, h]

theorem step_presentNext (pr : Presentation) (s : State) : step (presentNext pr s) = evaluate pr s :=
  step_cons (presentNext pr s) pr s.script rfl

end Sys2Proof.Machine
end

