-- ==== Sys2Proof/Laws/Fields.lean ====
section
/-!
SUPPORT. What each field operation computes, as an exact natural number (rule R8): bytes of a packed value, packing,
the encoder's bytes and the decoder's payloads. Cite these; the shifts and masks need not be unfolded again.
-/
namespace Sys2Proof.Machine

open Sys2Proof

/-- Bytes and payloads are below a power of two, so an OR of fields that do not overlap is their sum (rule R108). -/
theorem shiftLeft_or_eq_add {a b k : Nat} (h : b < 2 ^ k) : a <<< k ||| b = a * 2 ^ k + b := by
  rw [Nat.shiftLeft_eq, Nat.mul_comm, Nat.two_pow_add_eq_or_of_lt h]

theorem toNat_byteLane (p : Packed) (j : Nat) : (byteLane p j).toNat = p.toNat / 2 ^ (8 * j) % 256 := by
  simp [byteLane, BitVec.extractLsb'_toNat, Nat.shiftRight_eq_div_pow]

theorem getLsbD_byteLane (p : Packed) (j i : Nat) :
    (byteLane p j).getLsbD i = (decide (i < 8) && p.getLsbD (8 * j + i)) := by
  simp [byteLane]

/-- Two packed values are equal when their six bytes are (rule R10). -/
theorem packed_ext {p q : Packed} (h : ∀ j, j < 6 → byteLane p j = byteLane q j) : p = q := by
  apply BitVec.eq_of_getLsbD_eq
  intro i hi
  have hb := congrArg (fun b => b.getLsbD (i % 8)) (h (i / 8) (by omega))
  simp only [getLsbD_byteLane] at hb
  have h8 : i % 8 < 8 := Nat.mod_lt _ (by decide)
  simpa [h8, Nat.div_add_mod] using hb

theorem byteLane_and (p q : Packed) (j : Nat) : byteLane (p &&& q) j = byteLane p j &&& byteLane q j := by
  apply BitVec.eq_of_getLsbD_eq
  intro i hi
  simp only [getLsbD_byteLane, BitVec.getLsbD_and, hi, decide_true, Bool.true_and]

/-- A mask test on a packed value is a mask test on each of its bytes (rules R71, R73). -/
theorem and_eq_iff_lanes (p m v : Packed) :
    p &&& m = v ↔ ∀ j, j < 6 → byteLane p j &&& byteLane m j = byteLane v j := by
  constructor
  · rintro rfl j -
    exact (byteLane_and p m j).symm
  · intro h
    exact packed_ext fun j hj => (byteLane_and p m j).trans (h j hj)

/-- A packed value is the number its six bytes spell (rules R10, R43). -/
theorem toNat_eq_lanes (p : Packed) :
    p.toNat = (byteLane p 5).toNat * 2 ^ 40 + (byteLane p 4).toNat * 2 ^ 32 + (byteLane p 3).toNat * 2 ^ 24 +
      (byteLane p 2).toNat * 2 ^ 16 + (byteLane p 1).toNat * 2 ^ 8 + (byteLane p 0).toNat := by
  have hp := p.isLt
  simp only [toNat_byteLane]
  omega

/-- One more byte at the end of a pattern of fewer than six bytes. -/
theorem toNat_pack_step (acc : Packed) (b : Byte) (h : acc.toNat < 2 ^ 40) :
    (acc <<< 8 ||| b.setWidth 48).toNat = acc.toNat * 256 + b.toNat := by
  have hb : b.toNat < 2 ^ 8 := b.isLt
  have h1 : acc.toNat <<< 8 % 2 ^ 48 = acc.toNat <<< 8 := by
    rw [Nat.shiftLeft_eq]; omega
  have h2 : b.toNat % 2 ^ 48 = b.toNat := by omega
  rw [BitVec.toNat_or, BitVec.toNat_shiftLeft, BitVec.toNat_setWidth, h1, h2, shiftLeft_or_eq_add hb]
  rfl

/-- The value of a byte list read as one big-endian number (rule R42). -/
def bigEndian (bs : List Byte) : Nat := bs.foldl (fun acc b => acc * 256 + b.toNat) 0

theorem foldl_bigEndian_lt (bs : List Byte) (a n : Nat) (h : a < 256 ^ n) :
    bs.foldl (fun acc b => acc * 256 + b.toNat) a < 256 ^ (n + bs.length) := by
  induction bs generalizing a n with
  | nil => simpa using h
  | cons b bs ih =>
    have hb := b.isLt
    have h' : a * 256 + b.toNat < 256 ^ (n + 1) := by rw [Nat.pow_succ]; omega
    have := ih (a * 256 + b.toNat) (n + 1) h'
    simpa [Nat.add_assoc, Nat.add_comm, Nat.add_left_comm] using this

theorem bigEndian_lt (bs : List Byte) : bigEndian bs < 256 ^ bs.length := by
  simpa [bigEndian] using foldl_bigEndian_lt bs 0 0 (by simp)

theorem toNat_foldl_pack (bs : List Byte) (acc : Packed) (n : Nat) (h : acc.toNat < 256 ^ n)
    (hn : n + bs.length ≤ 6) :
    (bs.foldl (fun (acc : Packed) (b : Byte) => acc <<< 8 ||| b.setWidth 48) acc).toNat =
      bs.foldl (fun acc b => acc * 256 + b.toNat) acc.toNat := by
  induction bs generalizing acc n with
  | nil => rfl
  | cons b bs ih =>
    simp only [List.length_cons] at hn
    have hb := b.isLt
    have h40 : acc.toNat < 2 ^ 40 :=
      Nat.lt_of_lt_of_le h (by
        calc 256 ^ n ≤ 256 ^ 5 := Nat.pow_le_pow_right (by decide) (by omega)
          _ = 2 ^ 40 := by decide)
    have hs := toNat_pack_step acc b h40
    have h' : (acc <<< 8 ||| b.setWidth 48).toNat < 256 ^ (n + 1) := by
      rw [hs, Nat.pow_succ]; omega
    simp only [List.foldl_cons]
    rw [ih _ (n + 1) h' (by omega), hs]

/-- Packing is exact for up to six bytes (rules R8, R43). -/
theorem toNat_packBytes (bs : List Byte) (h : bs.length ≤ 6) : (packBytes bs).toNat = bigEndian bs :=
  toNat_foldl_pack bs 0#48 0 (by simp) (by omega)

/-- The packed value of n bytes has no bit from 8n up (rules R43, R63). -/
theorem toNat_packBytes_lt (bs : List Byte) (h : bs.length ≤ 6) : (packBytes bs).toNat < 2 ^ (8 * bs.length) := by
  rw [toNat_packBytes bs h, Nat.pow_mul]
  exact bigEndian_lt bs

/-- A continuation byte as a number (rule R74). -/
theorem toNat_contByte (cp : CodePoint) (lo : Nat) :
    (contByte cp lo).toNat = 0x80 + cp.toNat / 2 ^ lo % 64 := by
  have hx : cp.toNat >>> lo &&& 63 = cp.toNat / 2 ^ lo % 64 := by
    rw [Nat.shiftRight_eq_div_pow]
    exact Nat.and_two_pow_sub_one_eq_mod _ 6
  have hlt : cp.toNat / 2 ^ lo % 64 < 2 ^ 7 := by omega
  have h8 : cp.toNat / 2 ^ lo % 64 % 256 = cp.toNat / 2 ^ lo % 64 := by omega
  simp only [contByte, BitVec.toNat_or, BitVec.toNat_setWidth, BitVec.toNat_and, BitVec.toNat_ushiftRight]
  rw [show (0x3F#32 : BitVec 32).toNat = 63 from rfl, hx, show (2 : Nat) ^ 8 = 256 from rfl, h8,
    show (0x80#8 : BitVec 8).toNat = 1 <<< 7 from rfl, Nat.or_comm, shiftLeft_or_eq_add hlt]
  omega

/-- The leading byte as a number, inside its tier (rules R74, R108). -/
theorem toNat_leadByte (t : Tier) (cp : CodePoint) (ht : t ≠ .t1) (h : encInRange t cp = true) :
    (leadByte t cp).toNat = t.tag.toNat + cp.toNat / 2 ^ t.shift := by
  simp only [encInRange, Bool.and_eq_true, decide_eq_true_eq, BitVec.le_def] at h
  obtain ⟨-, h⟩ := h
  have key : ∀ a k x : Nat, x < 2 ^ k → a * 2 ^ k + x < 256 → x % 256 ||| a <<< k = a * 2 ^ k + x := by
    intro a k x hx hs
    have hm : x % 256 = x := Nat.mod_eq_of_lt (by omega)
    rw [hm, Nat.or_comm, shiftLeft_or_eq_add hx]
  cases t with
  | t1 => exact absurd rfl ht
  | t2 =>
    have hx : cp.toNat / 2 ^ 6 < 2 ^ 5 := by simp [Tier.encHi] at h; omega
    simpa [leadByte, Tier.tag, Tier.shift, Nat.shiftRight_eq_div_pow] using key 6 5 (cp.toNat / 2 ^ 6) hx (by omega)
  | t3 =>
    have hx : cp.toNat / 2 ^ 12 < 2 ^ 4 := by simp [Tier.encHi] at h; omega
    simpa [leadByte, Tier.tag, Tier.shift, Nat.shiftRight_eq_div_pow] using key 14 4 (cp.toNat / 2 ^ 12) hx (by omega)
  | t4 =>
    have hx : cp.toNat / 2 ^ 18 < 2 ^ 3 := by simp [Tier.encHi] at h; omega
    simpa [leadByte, Tier.tag, Tier.shift, Nat.shiftRight_eq_div_pow] using key 30 3 (cp.toNat / 2 ^ 18) hx (by omega)
  | t5 =>
    have hx : cp.toNat / 2 ^ 24 < 2 ^ 2 := by simp [Tier.encHi] at h; omega
    simpa [leadByte, Tier.tag, Tier.shift, Nat.shiftRight_eq_div_pow] using key 62 2 (cp.toNat / 2 ^ 24) hx (by omega)
  | t6 =>
    have hx : cp.toNat / 2 ^ 30 < 2 ^ 1 := by simp [Tier.encHi] at h; omega
    simpa [leadByte, Tier.tag, Tier.shift, Nat.shiftRight_eq_div_pow] using key 126 1 (cp.toNat / 2 ^ 30) hx (by omega)

/-- A continuation byte's payload as a number (rule R75). -/
theorem toNat_contPayload (b : Byte) (lo : Nat) (h : lo ≤ 24) :
    (contPayload b lo).toNat = b.toNat % 64 * 2 ^ lo := by
  have hx : b.toNat &&& 63 = b.toNat % 64 := Nat.and_two_pow_sub_one_eq_mod _ 6
  have hp : 2 ^ lo ≤ 2 ^ 24 := Nat.pow_le_pow_right (by decide) h
  have hm : b.toNat % 64 * 2 ^ lo < 2 ^ 32 :=
    calc b.toNat % 64 * 2 ^ lo ≤ 63 * 2 ^ 24 := Nat.mul_le_mul (by omega) hp
      _ < 2 ^ 32 := by decide
  have h32 : b.toNat % 64 % 2 ^ 32 = b.toNat % 64 := by omega
  simp only [contPayload, BitVec.toNat_shiftLeft, BitVec.toNat_setWidth, BitVec.toNat_and]
  rw [show (0x3F#8 : BitVec 8).toNat = 63 from rfl, hx, h32, Nat.shiftLeft_eq, Nat.mod_eq_of_lt hm]

/-- The leading byte's payload as a number (rule R75): its low 7-n bits at bit 6(n-1). -/
theorem toNat_leadPayload (t : Tier) (b : Byte) (ht : t ≠ .t1) :
    (leadPayload t b).toNat = b.toNat % 2 ^ (7 - t.bytes) * 2 ^ t.shift := by
  have key : ∀ m k sh : Nat, m = 2 ^ k - 1 → k + sh ≤ 31 →
      ((b.toNat &&& m) % 2 ^ 32) <<< sh % 2 ^ 32 = b.toNat % 2 ^ k * 2 ^ sh := by
    intro m k sh hm hk
    have hb := b.isLt
    have hlt : b.toNat % 2 ^ k < 2 ^ k := Nat.mod_lt _ (Nat.two_pow_pos k)
    have hle : b.toNat % 2 ^ k ≤ b.toNat := Nat.mod_le _ _
    have hp : 2 ^ k * 2 ^ sh ≤ 2 ^ 31 := by rw [← Nat.pow_add]; exact Nat.pow_le_pow_right (by decide) hk
    have hmul : b.toNat % 2 ^ k * 2 ^ sh < 2 ^ 32 :=
      calc b.toNat % 2 ^ k * 2 ^ sh ≤ 2 ^ k * 2 ^ sh := Nat.mul_le_mul_right _ hlt.le
        _ ≤ 2 ^ 31 := hp
        _ < 2 ^ 32 := by decide
    have h32 : b.toNat % 2 ^ k < 2 ^ 32 := by omega
    rw [hm, Nat.and_two_pow_sub_one_eq_mod, Nat.mod_eq_of_lt h32, Nat.shiftLeft_eq, Nat.mod_eq_of_lt hmul]
  simp only [leadPayload, BitVec.toNat_shiftLeft, BitVec.toNat_setWidth, BitVec.toNat_and]
  cases t with
  | t1 => exact absurd rfl ht
  | t2 => exact key 31 5 6 rfl (by decide)
  | t3 => exact key 15 4 12 rfl (by decide)
  | t4 => exact key 7 3 18 rfl (by decide)
  | t5 => exact key 3 2 24 rfl (by decide)
  | t6 => exact key 1 1 30 rfl (by decide)

/-- A continuation byte's payload bit by bit: bits 5..0 of the byte at bits lo+5..lo (rule R75). -/
theorem getLsbD_contPayload (b : Byte) (lo i : Nat) :
    (contPayload b lo).getLsbD i = (decide (i < 32) && (decide (lo ≤ i) && (decide (i - lo < 6) && b.getLsbD (i - lo)))) := by
  have hm : ∀ k, (0x3F#8 : Byte).getLsbD k = decide (k < 6) := by
    intro k
    by_cases h : k < 8
    · interval_cases k <;> rfl
    · rw [BitVec.getLsbD_of_ge _ _ (by omega)]
      simp; omega
  simp only [contPayload, BitVec.getLsbD_shiftLeft, BitVec.getLsbD_setWidth, BitVec.getLsbD_and, hm]
  by_cases h1 : i < 32
  · have h4 : i - lo < 32 := by omega
    by_cases h2 : i < lo
    · have h5 : ¬ lo ≤ i := by omega
      simp [h2, h5]
    · have h5 : lo ≤ i := by omega
      simp [h1, h4, h2, h5, Bool.and_comm]
  · simp [h1]

/-- The leading byte's payload bit by bit: its low 7-n bits from bit 6(n-1) up (rule R75). -/
theorem getLsbD_leadPayload (t : Tier) (b : Byte) (ht : t ≠ .t1) (i : Nat) :
    (leadPayload t b).getLsbD i =
      (decide (i < 32) && (decide (t.shift ≤ i) && (decide (i - t.shift < 7 - t.bytes) && b.getLsbD (i - t.shift)))) := by
  have hm : ∀ k, t.lmask.getLsbD k = decide (k < 7 - t.bytes) := by
    intro k
    by_cases h : k < 8
    · cases t with
      | t1 => exact absurd rfl ht
      | _ => interval_cases k <;> rfl
    · rw [BitVec.getLsbD_of_ge _ _ (by omega)]
      simp; omega
  simp only [leadPayload, BitVec.getLsbD_shiftLeft, BitVec.getLsbD_setWidth, BitVec.getLsbD_and, hm]
  by_cases h1 : i < 32
  · have h4 : i - t.shift < 32 := by omega
    by_cases h2 : i < t.shift
    · have h5 : ¬ t.shift ≤ i := by omega
      simp [h2, h5]
    · have h5 : t.shift ≤ i := by omega
      simp [h1, h4, h2, h5, Bool.and_comm]
  · simp [h1]

/-- A byte has the form `10xxxxxx` exactly when its top two bits are 2 (rule R148). -/
theorem isContinuation_iff (b : Byte) : isContinuation b = true ↔ b.toNat / 64 = 2 := by
  have hb := b.isLt
  simp only [isContinuation, beq_iff_eq, ← BitVec.toNat_inj, BitVec.extractLsb'_toNat, Nat.shiftRight_eq_div_pow]
  rw [show (0b10#2 : BitVec 2).toNat = 2 from rfl]
  omega

/-- A continuation byte that the encoder makes has the form `10xxxxxx` (rule R109). -/
theorem isContinuation_contByte (cp : CodePoint) (lo : Nat) : isContinuation (contByte cp lo) = true := by
  rw [isContinuation_iff, toNat_contByte]
  omega

end Sys2Proof.Machine
end

