-- ==== Sys2Proof/Laws/PerInstr.lean ====
section
/-!
SUPPORT. Statements about every constructor of Instr, one lemma for each.
Family StrictSelection: `DEC_STRICT_CONT = true` only adds a failure condition (spec/95_test_vectors.md, section 4), so
a case other than DEC.ERR that is selected under the strict build is selected under the permissive one, and DEC.ERR the
other way round; the ENC cases do not depend on the build.
-/
namespace Sys2Proof.Laws

open Sys2Proof

/-- What the strict range match selects, the permissive one selects. -/
theorem decSelects_of_strict {t : Tier} {p : Packed} (h : decSelects true t p = true) :
    decSelects false t p = true := by
  simp only [decSelects, Bool.and_eq_true] at *
  exact ⟨h.1, rfl⟩

/-- The statement of the family. -/
def StrictSelection.Statement : Instr → Prop
  | .decErr p => (Instr.decErr p).wf false = true → (Instr.decErr p).wf true = true
  | i => i.wf true = true → i.wf false = true

namespace StrictSelection

theorem encT1 (cp : CodePoint) : Statement (.encT1 cp) := fun h => h
theorem encT2 (cp : CodePoint) : Statement (.encT2 cp) := fun h => h
theorem encT3 (cp : CodePoint) : Statement (.encT3 cp) := fun h => h
theorem encT4 (cp : CodePoint) : Statement (.encT4 cp) := fun h => h
theorem encT5 (cp : CodePoint) : Statement (.encT5 cp) := fun h => h
theorem encT6 (cp : CodePoint) : Statement (.encT6 cp) := fun h => h
theorem encErr (cp : CodePoint) : Statement (.encErr cp) := fun h => h
theorem decT1 (p : Packed) : Statement (.decT1 p) := decSelects_of_strict
theorem decT2 (p : Packed) : Statement (.decT2 p) := decSelects_of_strict
theorem decT3 (p : Packed) : Statement (.decT3 p) := decSelects_of_strict
theorem decT4 (p : Packed) : Statement (.decT4 p) := decSelects_of_strict
theorem decT5 (p : Packed) : Statement (.decT5 p) := decSelects_of_strict
theorem decT6 (p : Packed) : Statement (.decT6 p) := decSelects_of_strict
theorem decErr (p : Packed) : Statement (.decErr p) := by
  intro h
  simp only [Instr.wf, List.all_eq_true, Bool.not_eq_true'] at *
  intro t ht
  by_contra hs
  rw [Bool.not_eq_false] at hs
  exact Bool.false_ne_true ((h t ht).symm.trans (decSelects_of_strict hs))

end StrictSelection

end Sys2Proof.Laws
end

