-- ==== Sys2Proof/Laws/Select.lean ====
section
/-!
SUPPORT. The ranges of the tier table as comparisons of numbers, which omega works with, and the cases as functions of
the tier.
-/
namespace Sys2Proof

theorem encInRange_iff (t : Tier) (cp : CodePoint) :
    encInRange t cp = true ↔ t.encLo.toNat ≤ cp.toNat ∧ cp.toNat ≤ t.encHi.toNat := by
  simp [encInRange, BitVec.le_def]

theorem decInRange_iff (t : Tier) (p : Packed) :
    decInRange t p = true ↔ t.decLo.toNat ≤ p.toNat ∧ p.toNat ≤ t.decHi.toNat := by
  simp [decInRange, BitVec.le_def]

theorem decSelects_false (t : Tier) (p : Packed) : decSelects false t p = decInRange t p := by
  simp [decSelects]

theorem decSelects_true (t : Tier) (p : Packed) :
    decSelects true t p = (decInRange t p && (contBytes t p).all isContinuation) := by
  simp [decSelects]

theorem wf_encCase (strict : Bool) (t : Tier) (cp : CodePoint) :
    (t.encCase cp).wf strict = encInRange t cp := by cases t <;> rfl

theorem wf_decCase (strict : Bool) (t : Tier) (p : Packed) :
    (t.decCase p).wf strict = decSelects strict t p := by cases t <;> rfl

theorem encode_encCase (t : Tier) (cp : CodePoint) : encode (t.encCase cp) = .enc cp := by cases t <;> rfl

theorem encode_decCase (t : Tier) (p : Packed) : encode (t.decCase p) = .dec p := by cases t <;> rfl

/-- Every tier stands in the table's list. -/
theorem Tier.mem_all (t : Tier) : t ∈ Tier.all := by cases t <;> decide

end Sys2Proof
end

