-- ==== Sys2Proof/Tests/Slice0.lean ====
section
/-!
SUPPORT. The model's own tests: an ill-formed term for each check of WellFormed, the decoding of each constructor from a
word written out from the spec, at most two results for each case, and, for each statement of Obligations.lean that
has hypotheses, a witness that meets them. Every expected value is the spec's (the rule or the vector is named).
-/
namespace Sys2Proof.Tests

open Sys2Proof Sys2Proof.Machine

/-- The permissive build with a host's list, some values already on the ports. -/
def perm : State := { State.resetOf Config.reference with script := [.enc 0x41#32] }

/-- The strict build right after reset. -/
def strict : State := State.resetOf Config.strictBuild

/-- What a case leaves on the ENC outputs. -/
def encAfter (i : Instr) (s : State) : Option EncOutputs :=
  match exec i s with
  | .next t => t.encOutputs
  | .fault _ => none
  | .refused _ => none

/-- What a case leaves on the DEC outputs. -/
def decAfter (i : Instr) (s : State) : Option DecOutputs :=
  match exec i s with
  | .next t => t.decOutputs
  | .fault _ => none
  | .refused _ => none

/-- The fixed parameters of rule R6 are those of the tier table (rule R65). -/
theorem test_parameters :
    Tier.all.length = Config.nTiers ∧ Tier.t6.encHi = Config.cpMax ∧ Tier.t6.bytes = Config.packBytesMax := by decide

/-! ### WellFormed refuses an ill-formed term for each check (the value beside the range of rule R65) -/

theorem test_wf_refuses_encT1 : ∀ b, Instr.wf b (.encT1 0x80#32) = false := by decide
theorem test_wf_refuses_encT2 : ∀ b, Instr.wf b (.encT2 0x7F#32) = false := by decide
theorem test_wf_refuses_encT3 : ∀ b, Instr.wf b (.encT3 0x10000#32) = false := by decide
theorem test_wf_refuses_encT4 : ∀ b, Instr.wf b (.encT4 0xFFFF#32) = false := by decide
theorem test_wf_refuses_encT5 : ∀ b, Instr.wf b (.encT5 0x4000000#32) = false := by decide
theorem test_wf_refuses_encT6 : ∀ b, Instr.wf b (.encT6 0x80000000#32) = false := by decide
theorem test_wf_refuses_encErr : ∀ b, Instr.wf b (.encErr 0x7FFFFFFF#32) = false := by decide
theorem test_wf_refuses_decT1 : ∀ b, Instr.wf b (.decT1 0x80#48) = false := by decide
theorem test_wf_refuses_decT2 : ∀ b, Instr.wf b (.decT2 0xC07F#48) = false := by decide
theorem test_wf_refuses_decT3 : ∀ b, Instr.wf b (.decT3 0xEFBFC0#48) = false := by decide
theorem test_wf_refuses_decT4 : ∀ b, Instr.wf b (.decT4 0xF080807F#48) = false := by decide
theorem test_wf_refuses_decT5 : ∀ b, Instr.wf b (.decT5 0xFBBFBFBFC0#48) = false := by decide
theorem test_wf_refuses_decT6 : ∀ b, Instr.wf b (.decT6 0xFE0000000000#48) = false := by decide
theorem test_wf_refuses_decErr : ∀ b, Instr.wf b (.decErr 0xC280#48) = false := by decide

/-- Rule R73: an in-range value with a bad continuation byte is DEC.T2 of the permissive build and DEC.ERR of the strict
one (vector V-D11). -/
theorem test_wf_strict_continuation :
    Instr.wf false (.decT2 0xC0C1#48) = true ∧ Instr.wf true (.decT2 0xC0C1#48) = false ∧
    Instr.wf true (.decErr 0xC0C1#48) = true := by decide

/-! ### Decoding, each word written bit by bit from the range, the tag and the masks of its row -/

/-- Rule R101, cp[31:7] = 0. -/
theorem test_decode_encT1 :
    selectEnc 0b00000000000000000000000001111111#32 = .encT1 0b00000000000000000000000001111111#32 := by decide
/-- Rule R102, cp[31:11] = 0. -/
theorem test_decode_encT2 :
    selectEnc 0b00000000000000000000011111111111#32 = .encT2 0b00000000000000000000011111111111#32 := by decide
/-- Rule R103, cp[15:11] ≠ 0. -/
theorem test_decode_encT3 :
    selectEnc 0b00000000000000000000100000000000#32 = .encT3 0b00000000000000000000100000000000#32 := by decide
/-- Rule R104, cp[20:16] ≠ 0. -/
theorem test_decode_encT4 :
    selectEnc 0b00000000000000010000000000000000#32 = .encT4 0b00000000000000010000000000000000#32 := by decide
/-- Rule R105, cp[31:26] = 0. -/
theorem test_decode_encT5 :
    selectEnc 0b00000011111111111111111111111111#32 = .encT5 0b00000011111111111111111111111111#32 := by decide
/-- Rule R106, cp[30:26] ≠ 0. -/
theorem test_decode_encT6 :
    selectEnc 0b00000100000000000000000000000000#32 = .encT6 0b00000100000000000000000000000000#32 := by decide
/-- Rule R107, cp[31] = 1. -/
theorem test_decode_encErr :
    selectEnc 0b10000000000000000000000000000000#32 = .encErr 0b10000000000000000000000000000000#32 := by decide
/-- Rule R141. -/
theorem test_decode_decT1 :
    ∀ b, selectDec b 0b000000000000000000000000000000000000000001000001#48 =
      .decT1 0b000000000000000000000000000000000000000001000001#48 := by decide
/-- Rule R142, 110xxxxx 10xxxxxx. -/
theorem test_decode_decT2 :
    ∀ b, selectDec b 0b000000000000000000000000000000001100001010000000#48 =
      .decT2 0b000000000000000000000000000000001100001010000000#48 := by decide
/-- Rule R143, 1110xxxx. -/
theorem test_decode_decT3 :
    ∀ b, selectDec b 0b000000000000000000000000111000101000001010101100#48 =
      .decT3 0b000000000000000000000000111000101000001010101100#48 := by decide
/-- Rule R144, 11110xxx. -/
theorem test_decode_decT4 :
    ∀ b, selectDec b 0b000000000000000011110000100111111001100010000000#48 =
      .decT4 0b000000000000000011110000100111111001100010000000#48 := by decide
/-- Rule R145, 111110xx. -/
theorem test_decode_decT5 :
    ∀ b, selectDec b 0b000000001111100010001000100000001000000010000000#48 =
      .decT5 0b000000001111100010001000100000001000000010000000#48 := by decide
/-- Rule R146, 1111110x. -/
theorem test_decode_decT6 :
    ∀ b, selectDec b 0b111111011011111110111111101111111011111110111111#48 =
      .decT6 0b111111011011111110111111101111111011111110111111#48 := by decide
/-- Rule R147, a lone continuation byte. -/
theorem test_decode_decErr :
    ∀ b, selectDec b 0b000000000000000000000000000000000000000010000000#48 =
      .decErr 0b000000000000000000000000000000000000000010000000#48 := by decide

/-- The table's words reach the port that their width names, and a word that fits no port is no instruction. -/
theorem test_decodeTableWord :
    decodeTableWord 32 0x20AC = some (.encT3 0x20AC#32) ∧ decodeTableWord 48 0xE282AC = some (.decT3 0xE282AC#48) ∧
    decodeTableWord 48 0 = some (.decT1 0#48) ∧ decodeTableWord 56 0 = none ∧
    decodeTableWord 32 0x100000000 = none := by decide

/-- `DECB 0xE2, 0x82, 0xAC` drives 0xE282AC (spec 95, program 3); no byte and seven bytes are no `DECB` (rule R81). -/
theorem test_decb :
    (decb [0xE2#8, 0x82#8, 0xAC#8]).toOption = some (.dec 0xE282AC#48) ∧ (decb []).toOption = none ∧
    (decb (List.replicate 7 0#8)).toOption = none ∧
    (decodeBytes false [0xE2#8, 0x82#8]).toOption = some (.decErr 0xE282#48) := by decide

/-- Rule R44 on vector V-E21: the bytes of 0xFC928D8599B8 in emission order. -/
theorem test_laneBytes :
    laneBytes 6 0xFC928D8599B8#48 = [0xFC#8, 0x92#8, 0x8D#8, 0x85#8, 0x99#8, 0xB8#8] := by decide

/-! ### Results of the cases (vectors of spec 95) -/

/-- V-E01. -/
theorem test_encT1_a : encAfter (.encT1 0x0#32) perm = some ⟨0#2, 1#3, 0x0#48⟩ := by decide
/-- V-E02. -/
theorem test_encT1_b : encAfter (.encT1 0x41#32) perm = some ⟨0#2, 1#3, 0x41#48⟩ := by decide
/-- V-E04. -/
theorem test_encT2_a : encAfter (.encT2 0x80#32) perm = some ⟨0#2, 2#3, 0xC280#48⟩ := by decide
/-- V-E06. -/
theorem test_encT2_b : encAfter (.encT2 0x7FF#32) perm = some ⟨0#2, 2#3, 0xDFBF#48⟩ := by decide
/-- V-E07. -/
theorem test_encT3_a : encAfter (.encT3 0x800#32) perm = some ⟨0#2, 3#3, 0xE0A080#48⟩ := by decide
/-- V-E08. -/
theorem test_encT3_b : encAfter (.encT3 0x20AC#32) perm = some ⟨0#2, 3#3, 0xE282AC#48⟩ := by decide
/-- V-E13. -/
theorem test_encT4_a : encAfter (.encT4 0x1F600#32) perm = some ⟨0#2, 4#3, 0xF09F9880#48⟩ := by decide
/-- V-E15. -/
theorem test_encT4_b : encAfter (.encT4 0x110000#32) perm = some ⟨0#2, 4#3, 0xF4908080#48⟩ := by decide
/-- V-E18. -/
theorem test_encT5_a : encAfter (.encT5 0x02ABCDEF#32) perm = some ⟨0#2, 5#3, 0xFAAABCB7AF#48⟩ := by decide
/-- V-E19. -/
theorem test_encT5_b : encAfter (.encT5 0x3FFFFFF#32) perm = some ⟨0#2, 5#3, 0xFBBFBFBFBF#48⟩ := by decide
/-- V-E21. -/
theorem test_encT6_a : encAfter (.encT6 0x12345678#32) perm = some ⟨0#2, 6#3, 0xFC928D8599B8#48⟩ := by decide
/-- V-E22. -/
theorem test_encT6_b : encAfter (.encT6 0x7FFFFFFF#32) perm = some ⟨0#2, 6#3, 0xFDBFBFBFBFBF#48⟩ := by decide
/-- V-E24. -/
theorem test_encErr_a : encAfter (.encErr 0xDEADBEEF#32) perm = some ⟨1#2, 0#3, 0#48⟩ := by decide
/-- V-D03. -/
theorem test_decT1_a : decAfter (.decT1 0x7F#48) perm = some ⟨0#2, 1#3, 0x7F#32⟩ := by decide
/-- V-D15, permissive. -/
theorem test_decT2_a : decAfter (.decT2 0xC2C0#48) perm = some ⟨0#2, 2#3, 0x80#32⟩ := by decide
/-- V-D15, strict. -/
theorem test_decT2_b : decAfter (.decT2 0xC2C0#48) strict = some ⟨2#2, 0#3, 0#32⟩ := by decide
/-- V-D23. -/
theorem test_decT3_a : decAfter (.decT3 0xE282AC#48) strict = some ⟨0#2, 3#3, 0x20AC#32⟩ := by decide
/-- V-D25, strict. -/
theorem test_decT3_b : decAfter (.decT3 0xE10000#48) strict = some ⟨2#2, 0#3, 0#32⟩ := by decide
/-- V-D30. -/
theorem test_decT4_a : decAfter (.decT4 0xF48FBFBF#48) strict = some ⟨0#2, 4#3, 0x10FFFF#32⟩ := by decide
/-- V-D35, permissive. -/
theorem test_decT5_a : decAfter (.decT5 0xF9C0C0C0C0#48) perm = some ⟨0#2, 5#3, 0x1000000#32⟩ := by decide
/-- V-D35, strict. -/
theorem test_decT5_b : decAfter (.decT5 0xF9C0C0C0C0#48) strict = some ⟨2#2, 0#3, 0#32⟩ := by decide
/-- V-D40. -/
theorem test_decT6_a : decAfter (.decT6 0xFC928D8599B8#48) strict = some ⟨0#2, 6#3, 0x12345678#32⟩ := by decide
/-- V-D44. -/
theorem test_decErr_a : decAfter (.decErr 0xFFFFFFFFFFFF#48) perm = some ⟨2#2, 0#3, 0#32⟩ := by decide

/-- Spec 95, section 4: both inputs driven at once. -/
theorem test_both_channels_at_once :
    (match evaluate (.both 0x80000000#32 0xC280#48) strict with
      | .next t => some (t.encOutputs, t.decOutputs)
      | .fault _ => none
      | .refused _ => none) = some (some ⟨1#2, 0#3, 0#48⟩, some ⟨0#2, 2#3, 0x80#32⟩) := by decide

/-- The whole path of a stored table word from reset (rule R103). -/
theorem test_withFetchWord :
    (match Sys2Proof.Machine.step (State.reset.withFetchWord 32 0x20AC) with
      | .next t => (t.encCp, t.encOutputs, t.script)
      | .fault _ => (none, none, [])
      | .refused _ => (none, none, [])) = (some 0x20AC#32, some ⟨0#2, 3#3, 0xE282AC#48⟩, []) := by decide

/-! ### Witnesses: each statement of Obligations.lean that has hypotheses, with values that meet them -/

theorem witness_OutOfRangeBitIsBit31 :
    (0x7FFFFFFF#32 : CodePoint).getLsbD 31 = false ∧ Config.cpMax < 0x80000000#32 := by decide

/-- Both ends of every range, and the first value above them all. -/
theorem witness_EncoderSelectsTheOneTierInRange :
    (Tier.all.all fun t => encInRange t t.encLo && encInRange t t.encHi) = true ∧ Config.cpMax < 0x80000000#32 := by
  decide

/-- No bit of 0x7F is set above bit 6. -/
theorem witness_EncoderTierByHighestSetBit_low :
    (0x7F#32 : CodePoint).getLsbD 6 = true ∧ ∀ j, 6 < j → (0x7F#32 : CodePoint).getLsbD j = false := by
  refine ⟨rfl, fun j hj => ?_⟩
  by_cases h : j < 32
  · interval_cases j <;> rfl
  · exact BitVec.getLsbD_of_ge _ _ (by omega)

theorem witness_EncoderTierByHighestSetBit_high :
    (0x80000000#32 : CodePoint).getLsbD 31 = true ∧ ∀ j, 31 < j → (0x80000000#32 : CodePoint).getLsbD j = false :=
  ⟨rfl, fun j hj => BitVec.getLsbD_of_ge _ _ (by omega)⟩

theorem witness_DecoderSelectsByPackedRange :
    (Tier.all.all fun t => decInRange t t.decLo && decInRange t t.decHi) = true ∧
    Tier.t6.bytes = Tier.t5.bytes + 1 ∧
    (Tier.all.all fun t => !decInRange t 0x80#48 && !decInRange t 0xFFFFFFFFFFFF#48) = true ∧
    (Tier.all.all fun t => decSelects false t t.decHi && decSelects true t t.decLo) = true := by decide

theorem witness_RangeMatchImpliesLeadingTag :
    (Tier.all.all fun t => decInRange t t.decLo && decInRange t t.decHi) = true ∧
    (0xC07F#48 &&& Tier.t2.tagMask = Tier.t2.tagMatch ∧ decInRange .t2 0xC07F#48 = false) := by decide

/-- A leading byte strictly between the two end values. -/
theorem witness_PermissiveRangeReadByteByByte_between :
    Tier.t2 ≠ .t1 ∧ (0xC100#48 : Packed).toNat / 2 ^ (8 * Tier.t2.bytes) = 0 ∧
    Tier.t2.tag < seqByte Tier.t2.bytes 0xC100#48 0 ∧ seqByte Tier.t2.bytes 0xC100#48 0 < (Tier.t2.tag ||| Tier.t2.lmask) := by
  decide

/-- Both end values of the leading byte, in range, for every tier of two bytes or more. -/
theorem witness_PermissiveRangeReadByteByByte :
    ∀ t ∈ Tier.all.tail, t ≠ .t1 ∧ seqByte t.bytes t.decLo 0 = t.tag ∧ seqByte t.bytes t.decHi 0 = (t.tag ||| t.lmask) := by
  decide

theorem witness_StrictSelectionIsItsMaskTable :
    decInRange .t2 0xC0C1#48 = true ∧ 1 < Tier.t2.bytes ∧
    (seqByte Tier.t2.bytes 0xC0C1#48 1).extractLsb' 6 2 ≠ 0b10#2 := by decide

/-- Every constructor at an end of its range, in both builds. -/
theorem witness_DecodeOfEncodeIsTheCase :
    ∀ b, (Tier.all.all fun t => (t.encCase t.encHi).wf b && (t.decCase t.decLo).wf b && (t.decCase t.decHi).wf b) = true ∧
      Instr.wf b (.encErr 0x80000000#32) = true ∧ Instr.wf b (.decErr 0x80#48) = true := by decide

theorem witness_PackedBytesSitRightAlignedBigEndian :
    (List.replicate 6 0xFF#8).length ≤ 6 ∧ 5 < (List.replicate 6 0xFF#8).length ∧
    (0xFFFFFFFFFFFF#48 : Packed).toNat < 2 ^ (8 * 6) := by decide

theorem witness_ByteArraysArePackedWithoutTheirLength :
    (1 ≤ [0x41#8].length ∧ [0x41#8].length ≤ 6) ∧ (List.replicate 6 0xBF#8).length ≤ 6 ∧
    (List.replicate 5 0xBF#8).length ≤ 5 := by decide

theorem witness_EncTier2PacksTwoBytes :
    (0x80#32 ≤ 0x80#32 ∧ 0x80#32 ≤ 0x7FF#32) ∧ 0x80#32 ≤ 0x7FF#32 ∧ 0x7FF#32 ≤ 0x7FF#32 := by decide

/-- The low end also meets the corner case's premise, a leading byte of 0xE0. -/
theorem witness_EncTier3PacksThreeBytes :
    0x800#32 ≤ 0x800#32 ∧ 0xFFFF#32 ≤ 0xFFFF#32 ∧
    0b1110#4 ++ (0x800#32 : CodePoint).extractLsb' 12 4 = 0xE0#8 := by decide

theorem witness_EncTier4PacksFourBytes :
    0x10000#32 ≤ 0x10000#32 ∧ 0x10000#32 ≤ 0x1FFFFF#32 ∧ 0x1FFFFF#32 ≤ 0x1FFFFF#32 := by decide

theorem witness_EncTier5PacksFiveBytes :
    0x200000#32 ≤ 0x200000#32 ∧ 0x200000#32 ≤ 0x3FFFFFF#32 ∧ 0x3FFFFFF#32 ≤ 0x3FFFFFF#32 := by decide

theorem witness_EncTier6PacksSixBytes :
    0x4000000#32 ≤ 0x4000000#32 ∧ 0x4000000#32 ≤ 0x7FFFFFFF#32 ∧ 0x7FFFFFFF#32 ≤ 0x7FFFFFFF#32 := by decide

theorem witness_EncodedBytesAreLeadAndSlices :
    encInRange .t1 0x7F#32 = true ∧ encInRange .t6 0x7FFFFFFF#32 = true ∧ 5 < Tier.t6.bytes := by decide

theorem witness_EncoderOutputShape :
    encInRange .t1 0x00#32 = true ∧ encInRange .t2 0x80#32 = true ∧ 1 < Tier.t2.bytes := by decide

/-- 0x7F has its own one byte and the overlong 0xC1BF. -/
theorem witness_EncoderEmitsOnlyTheShortestForm :
    0x7F#32 ≤ Config.cpMax ∧ observeEnc 0x7F#32 perm = some ⟨0#2, 1#3, 0x7F#48⟩ ∧ encInRange .t1 0x7F#32 = true ∧
    observeDec 0xC1BF#48 perm = some ⟨0#2, 2#3, 0x7F#32⟩ := by decide

theorem witness_EncoderExcludesNoCodePointInRange : 0xD800#32 ≤ Config.cpMax ∧ 0x7FFFFFFF#32 ≤ Config.cpMax := by decide

theorem witness_DecTier1IsTheValueItself : (List.replicate 5 0x41#8).length ≤ 5 := by decide

/-- A permissive state, a strict state with a continuation byte, a strict state without one. -/
theorem witness_DecTier2UnpacksTwoBytes :
    perm.build.decStrictCont = false ∧ strict.build.decStrictCont = true ∧
    (0xDFBF#48 : Packed).extractLsb' 6 2 = 0b10#2 ∧ (0xC0C1#48 : Packed).extractLsb' 6 2 ≠ 0b10#2 := by decide

theorem witness_DecTier3UnpacksThreeBytes :
    perm.build.decStrictCont = false ∧ strict.build.decStrictCont = true ∧
    ((0xEFBFBF#48 : Packed).extractLsb' 14 2 = 0b10#2 ∧ (0xEFBFBF#48 : Packed).extractLsb' 6 2 = 0b10#2) ∧
    (0xE10000#48 : Packed).extractLsb' 14 2 ≠ 0b10#2 := by decide

theorem witness_DecTier4UnpacksFourBytes :
    perm.build.decStrictCont = false ∧ strict.build.decStrictCont = true ∧
    (∀ k, k < 3 → (0xF7BFBFBF#48 : Packed).extractLsb' (8 * k + 6) 2 = 0b10#2) ∧
    (0xF1BF00BF#48 : Packed).extractLsb' (8 * 1 + 6) 2 ≠ 0b10#2 := by decide

theorem witness_DecTier5UnpacksFiveBytes :
    perm.build.decStrictCont = false ∧ strict.build.decStrictCont = true ∧
    (∀ k, k < 4 → (0xFBBFBFBFBF#48 : Packed).extractLsb' (8 * k + 6) 2 = 0b10#2) ∧
    (0xF9C0C0C0C0#48 : Packed).extractLsb' (8 * 3 + 6) 2 ≠ 0b10#2 := by decide

theorem witness_DecTier6UnpacksSixBytes :
    perm.build.decStrictCont = false ∧ strict.build.decStrictCont = true ∧
    (∀ k, k < 5 → (0xFDBFBFBFBFBF#48 : Packed).extractLsb' (8 * k + 6) 2 = 0b10#2) ∧
    (0xFCFFBFBFBFBF#48 : Packed).extractLsb' (8 * 4 + 6) 2 ≠ 0b10#2 ∧ 0xFE0000000000#48 ≤ 0xFE0000000000#48 := by decide

theorem witness_DecErrorIsInvalidEncoding :
    (0x80#48 ≤ 0xBF#48 ∧ 0xBF#48 ≤ 0xBF#48) ∧ (0xC0#48 ≤ 0xFF#48 ∧ 0xFF#48 ≤ 0xFF#48) ∧
    byteLane 0xFE0000000000#48 5 = 0xFE#8 ∧ byteLane 0xFFFFFFFFFFFF#48 5 = 0xFF#8 := by decide

theorem witness_DecodedBitsComeFromTheirPayloads :
    (Tier.all.all fun t => decSelects perm.build.decStrictCont t t.decHi && decSelects strict.build.decStrictCont t t.decLo)
      = true ∧ 4 < Tier.t6.bytes - 1 ∧ 0 < 7 - Tier.t6.bytes := by decide

theorem witness_StrictCheckAfterRangeSelection :
    decInRange .t2 0xC0C1#48 = true ∧ strict.build.decStrictCont = true ∧ perm.build.decStrictCont = false := by decide

theorem witness_StrictAcceptsNothingNew :
    strict.build.decStrictCont = true ∧ perm.build.decStrictCont = false ∧
    observeDec 0xE282AC#48 strict = some ⟨0#2, 3#3, 0x20AC#32⟩ := by decide

/-- A strict state whose pattern has only continuation bytes `10xxxxxx`, and a permissive one. -/
theorem witness_DecoderMakesNoOtherCheck :
    decInRange .t3 0xEDA080#48 = true ∧ strict.build.decStrictCont = true ∧
    (∀ k, k < 3 → 1 ≤ k → (seqByte 3 0xEDA080#48 k).extractLsb' 6 2 = 0b10#2) ∧
    perm.build.decStrictCont = false ∧ decInRange .t3 0xE10000#48 = true := by decide

/-- Both kinds: an overlong form in the strict build, and a bad continuation byte in the permissive one. -/
theorem witness_AcceptedNonCanonicalPatternsAreOfTwoKinds :
    decSelects strict.build.decStrictCont .t2 0xC080#48 = true ∧ decSelects perm.build.decStrictCont .t2 0xC2C0#48 = true ∧
    observeDec 0xC080#48 strict = some ⟨0#2, BitVec.ofNat 3 Tier.t2.bytes, 0x00#32⟩ ∧
    (observeEnc 0x00#32 strict).map (·.out) ≠ some 0xC080#48 ∧
    observeDec 0xC2C0#48 perm = some ⟨0#2, BitVec.ofNat 3 Tier.t2.bytes, 0x80#32⟩ ∧
    (observeEnc 0x80#32 perm).map (·.out) ≠ some 0xC2C0#48 ∧ perm.build.decStrictCont = false := by decide

theorem witness_DecodingAnEncodedCodePointGivesItBack : 0x00#32 ≤ Config.cpMax ∧ 0x7FFFFFFF#32 ≤ Config.cpMax := by decide

theorem witness_EncodingADecodedPatternOnlyOnCanonicalInputs :
    observeDec 0xC280#48 strict = some ⟨0#2, 2#3, 0x80#32⟩ ∧ observeDec 0xC080#48 perm = some ⟨0#2, 2#3, 0x00#32⟩ ∧
    perm.build.decStrictCont = false := by decide

theorem witness_ProperPrefixOfACanonicalSequenceIsRejected :
    observeEnc 0x20AC#32 perm = some ⟨0#2, 3#3, 0xE282AC#48⟩ ∧ 1 ≤ 2 ∧ 2 < (3#3 : Len).toNat := by decide

theorem witness_EncoderCasesWriteOnlyTheirOutputs : isEncCase (.encErr 0x80000000#32) = true := by decide

theorem witness_DecoderCasesWriteOnlyTheirOutputs :
    isEncCase (.decErr 0x80#48) = false ∧ strict.build = (State.resetOf Config.strictBuild).build := by decide

theorem witness_ChannelsAreIndependent :
    isEncCase (.encT3 0x20AC#32) = true ∧ isEncCase (.decT2 0xC280#48) = false := by decide

/-- Two different states of one build. -/
theorem witness_EvaluationsForgetThePast : perm.build = State.reset.build ∧ perm ≠ State.reset := by decide

theorem witness_EvaluationIsIdempotent :
    (∃ t, evaluate (.both 0x41#32 0x80#48) perm = .next t) ∧ (∃ t, evaluate (.enc 0x41#32) perm = .next t) ∧
    (∃ t, evaluate (.dec 0x80#48) perm = .next t) ∧
    decValue (.enc 0x41#32) = none ∧ encValue (.dec 0x80#48) = none :=
  ⟨⟨_, rfl⟩, ⟨_, rfl⟩, ⟨_, rfl⟩, rfl, rfl⟩

/-- A well-formed case whose word stands first on the host's list, both ports at once, and nothing to present. -/
theorem witness_StepRunsTheSelectedCase :
    (Instr.encT1 0x41#32).wf perm.build.decStrictCont = true ∧ perm.script = encode (.encT1 0x41#32) :: [] ∧
    (presentNext (.both 0x41#32 0x80#48) perm).script = .both 0x41#32 0x80#48 :: perm.script ∧ strict.script = [] := by
  decide

theorem witness_StoredTableWordRunsNext : 0xFFFFFFFF < 2 ^ 32 ∧ 0xFFFFFFFFFFFF < 2 ^ 48 := by decide

/-- A state with both ports driven and something to present. -/
def driven : State :=
  { build := Config.reference, encCp := some 0x80#32, encOutputs := some ⟨0#2, 2#3, 0xC280#48⟩, decIn := some 0x80#48,
    decOutputs := some ⟨2#2, 0#3, 0#32⟩, script := [.enc 0x80000000#32] }

theorem driven_steps : ∃ t, Sys2Proof.Machine.step driven = .next t := ⟨_, rfl⟩

theorem witness_StepKeepsOutputsFollowingInputs :
    driven.OutputsFollowInputs ∧ ∃ t, Sys2Proof.Machine.step driven = .next t := by
  refine ⟨⟨?_, ?_⟩, driven_steps⟩ <;> decide

theorem witness_StepKeepsOutputsLegal :
    driven.OutputsLegal ∧ ∃ t, Sys2Proof.Machine.step driven = .next t := by
  refine ⟨⟨fun o h => ?_, fun o h => ?_⟩, driven_steps⟩
  · cases h; exact .inl (by decide)
  · cases h; exact .inr (by decide)

theorem witness_BuildParameterNeverChanges : ∃ t, Sys2Proof.Machine.step strict = .next t := ⟨_, rfl⟩

/-- The same evaluations at once and one by one. -/
theorem witness_InterleavingsGiveTheSameResult :
    [Presentation.both 0x41#32 0x80#48, .enc 0x42#32].filterMap encValue =
      [Presentation.dec 0x80#48, .enc 0x41#32, .enc 0x42#32].filterMap encValue ∧
    [Presentation.both 0x41#32 0x80#48, .enc 0x42#32].filterMap decValue =
      [Presentation.dec 0x80#48, .enc 0x41#32, .enc 0x42#32].filterMap decValue := by decide

end Sys2Proof.Tests
end

section
/-!
PROOFS. The two channels refine the functions the spec states whole: from every state, the case that an input port
selects writes ENCODE(cp) (rule R100) or DECODE(P) (rule R140) on its channel's outputs, and nothing else.
-/
namespace Sys2Proof

/-! ### Selection: the ranges of the tier table do not overlap -/

theorem Tier.bytes_injective {t u : Tier} (h : t.bytes = u.bytes) : t = u := by
  have table : ∀ t ∈ Tier.all, ∀ u ∈ Tier.all, t.bytes = u.bytes → t = u := by decide
  exact table t t.mem_all u u.mem_all h

theorem Tier.shift_eq (t : Tier) : t.shift = 6 * (t.bytes - 1) := by cases t <;> rfl

theorem Tier.bytes_ne_one {t : Tier} (ht : t ≠ .t1) : t.bytes ≠ 1 := fun h => ht (Tier.bytes_injective (u := .t1) h)

theorem Tier.bytes_le_six (t : Tier) : t.bytes ≤ 6 := by cases t <;> decide

theorem Tier.encHi_lt_encLo {t u : Tier} (h : t.bytes < u.bytes) : t.encHi.toNat < u.encLo.toNat := by
  have table : ∀ t ∈ Tier.all, ∀ u ∈ Tier.all, t.bytes < u.bytes → t.encHi.toNat < u.encLo.toNat := by decide
  exact table t t.mem_all u u.mem_all h

theorem Tier.decHi_lt_decLo {t u : Tier} (h : t.bytes < u.bytes) : t.decHi.toNat < u.decLo.toNat := by
  have table : ∀ t ∈ Tier.all, ∀ u ∈ Tier.all, t.bytes < u.bytes → t.decHi.toNat < u.decLo.toNat := by decide
  exact table t t.mem_all u u.mem_all h

/-- At most one ENC range holds a code point (rule R66). -/
theorem encInRange_unique {t u : Tier} {cp : CodePoint} (ht : encInRange t cp = true) (hu : encInRange u cp = true) :
    t = u := by
  rw [encInRange_iff] at ht hu
  rcases Nat.lt_trichotomy t.bytes u.bytes with h | h | h
  · have := Tier.encHi_lt_encLo h
    omega
  · exact Tier.bytes_injective h
  · have := Tier.encHi_lt_encLo h
    omega

/-- At most one DEC range holds a packed value (rule R69). -/
theorem decInRange_unique {t u : Tier} {p : Packed} (ht : decInRange t p = true) (hu : decInRange u p = true) :
    t = u := by
  rw [decInRange_iff] at ht hu
  rcases Nat.lt_trichotomy t.bytes u.bytes with h | h | h
  · have := Tier.decHi_lt_decLo h
    omega
  · exact Tier.bytes_injective h
  · have := Tier.decHi_lt_decLo h
    omega

theorem decInRange_of_decSelects {strict : Bool} {t : Tier} {p : Packed} (h : decSelects strict t p = true) :
    decInRange t p = true := by
  unfold decSelects at h
  exact (Bool.and_eq_true_iff.mp h).1

/-- A search of the tier table finds the one tier that meets the test. -/
theorem Tier.find?_all_eq_some {f : Tier → Bool} {t : Tier} (ht : f t = true) (unique : ∀ u, f u = true → u = t) :
    Tier.all.find? f = some t := by
  cases h : Tier.all.find? f with
  | none => exact absurd ht (List.find?_eq_none.mp h t t.mem_all)
  | some u => rw [unique u (List.find?_some h)]

theorem Tier.find?_all_eq_none {f : Tier → Bool} (h : ∀ t, f t = false) : Tier.all.find? f = none :=
  List.find?_eq_none.mpr fun t _ => by simp [h t]

/-- The encoder's multiplexer is a search of the tier table. -/
theorem selectEnc_eq_find? (cp : CodePoint) :
    selectEnc cp = (Tier.all.find? fun t => encInRange t cp).elim (.encErr cp) (·.encCase cp) := by
  unfold selectEnc Tier.all
  split_ifs <;> simp [List.find?, Tier.encCase, *]

/-- The decoder's range match is a search of the tier table. -/
theorem selectDec_eq_find? (strict : Bool) (p : Packed) :
    selectDec strict p = (Tier.all.find? fun t => decSelects strict t p).elim (.decErr p) (·.decCase p) := by
  unfold selectDec Tier.all
  split_ifs <;> simp [List.find?, Tier.decCase, *]

theorem selectEnc_of_encInRange {t : Tier} {cp : CodePoint} (h : encInRange t cp = true) :
    selectEnc cp = t.encCase cp := by
  rw [selectEnc_eq_find?, Tier.find?_all_eq_some h fun _ hu => encInRange_unique hu h, Option.elim_some]

theorem selectEnc_of_no_range {cp : CodePoint} (h : ∀ t, encInRange t cp = false) : selectEnc cp = .encErr cp := by
  rw [selectEnc_eq_find?, Tier.find?_all_eq_none h, Option.elim_none]

theorem selectDec_of_decSelects {strict : Bool} {t : Tier} {p : Packed} (h : decSelects strict t p = true) :
    selectDec strict p = t.decCase p := by
  have unique (u : Tier) (hu : decSelects strict u p = true) : u = t :=
    decInRange_unique (decInRange_of_decSelects hu) (decInRange_of_decSelects h)
  rw [selectDec_eq_find?, Tier.find?_all_eq_some h unique, Option.elim_some]

theorem selectDec_of_no_selection {strict : Bool} {p : Packed} (h : ∀ t, decSelects strict t p = false) :
    selectDec strict p = .decErr p := by
  rw [selectDec_eq_find?, Tier.find?_all_eq_none h, Option.elim_none]

end Sys2Proof

namespace Sys2Proof.Machine

open Sys2Proof

/-! ### The encoder's cases compute ENCODE (rule R100) -/

theorem channelEncode_of_encInRange {t : Tier} {cp : CodePoint} (h : encInRange t cp = true) :
    channelEncode cp = encOk t.bytes (BitVec.ofNat 48 (encodeSum t cp.toNat)) := by
  unfold channelEncode
  rw [Tier.find?_all_eq_some h fun _ hu => encInRange_unique hu h]

theorem channelEncode_of_no_range {cp : CodePoint} (h : ∀ t, encInRange t cp = false) :
    channelEncode cp = encError := by
  unfold channelEncode
  rw [Tier.find?_all_eq_none h]

/-- The bytes that the case of a tier n ≥ 2 packs, leading byte first (rule R74). -/
def encodedBytes (t : Tier) (cp : CodePoint) : List Byte :=
  (List.range t.bytes).map fun k => if k = 0 then leadByte t cp else contByte cp (6 * (t.bytes - 1 - k))

theorem exec_encT1 (cp : CodePoint) (s : State) :
    exec (.encT1 cp) s = .next (s.setEnc (encOk 1 ((cp.extractLsb' 0 7).setWidth 48))) := rfl

theorem exec_encErr (cp : CodePoint) (s : State) : exec (.encErr cp) s = .next (s.setEnc encError) := rfl

/-- Rules R102 to R106 as one: a case of a tier n ≥ 2 delivers its n packed bytes. -/
theorem exec_encCase {t : Tier} (ht : t ≠ .t1) (cp : CodePoint) (s : State) :
    exec (t.encCase cp) s = .next (s.setEnc (encOk t.bytes (packBytes (encodedBytes t cp)))) := by
  cases t with
  | t1 => exact absurd rfl ht
  | _ => rfl

/-- Appending a byte to a big-endian number. -/
theorem bigEndian_append_singleton (bs : List Byte) (b : Byte) :
    bigEndian (bs ++ [b]) = bigEndian bs * 2 ^ 8 + b.toNat := by
  simp [bigEndian]

/-- A big-endian number is the sum of its bytes at their places (rules R43, R100). -/
theorem bigEndian_map_range (f : Nat → Byte) (n : Nat) :
    bigEndian ((List.range n).map f) = ((List.range n).map fun k => (f k).toNat <<< (8 * (n - 1 - k))).sum := by
  induction n with
  | zero => rfl
  | succ n ih =>
    have place : ∀ k ∈ List.range n,
        (f k).toNat <<< (8 * (n + 1 - 1 - k)) = (f k).toNat <<< (8 * (n - 1 - k)) * 2 ^ 8 := by
      intro k hk
      have hk : k < n := List.mem_range.mp hk
      rw [show 8 * (n + 1 - 1 - k) = 8 * (n - 1 - k) + 8 by omega, Nat.shiftLeft_add, Nat.shiftLeft_eq _ 8]
    rw [List.range_succ, List.map_append, List.map_append, List.sum_append, List.map_congr_left place,
      List.sum_map_mul_right, ← ih]
    simp [bigEndian_append_singleton]

/-- Each byte of a case of tier n ≥ 2 is ENCODE's (rules R74, R100). -/
theorem toNat_encodedByte {t : Tier} (ht : t ≠ .t1) (cp : CodePoint) (k : Nat) :
    (if k = 0 then leadByte t cp else contByte cp (6 * (t.bytes - 1 - k))).toNat = encodeByte t cp.toNat k := by
  unfold encodeByte
  rw [if_neg (Tier.bytes_ne_one ht)]
  split
  · have htag : t.tag.toNat % 2 ^ 32 = t.tag.toNat := Nat.mod_eq_of_lt (by have := t.tag.isLt; omega)
    simp only [leadByte, BitVec.toNat_setWidth, BitVec.toNat_or, BitVec.toNat_ushiftRight, htag, Tier.shift_eq]
  · have hlt : cp.toNat >>> (6 * (t.bytes - 1 - k)) &&& (0x3F#32).toNat < 2 ^ 8 :=
      Nat.lt_of_le_of_lt Nat.and_le_right (by decide)
    rw [contByte, BitVec.toNat_or, BitVec.toNat_setWidth, BitVec.toNat_and, BitVec.toNat_ushiftRight,
      Nat.mod_eq_of_lt hlt]
    rfl

/-- A case of a tier n ≥ 2 packs ENCODE's value (rule R100). -/
theorem packBytes_encodedBytes {t : Tier} (ht : t ≠ .t1) (cp : CodePoint) :
    packBytes (encodedBytes t cp) = BitVec.ofNat 48 (encodeSum t cp.toNat) := by
  have hlen : (encodedBytes t cp).length ≤ 6 := by simpa [encodedBytes] using Tier.bytes_le_six t
  have hsum : bigEndian (encodedBytes t cp) = encodeSum t cp.toNat := by
    unfold encodedBytes encodeSum
    rw [bigEndian_map_range]
    simp only [toNat_encodedByte ht]
  rw [← hsum, ← toNat_packBytes _ hlen, BitVec.ofNat_toNat, BitVec.setWidth_eq]

/-- Tier 1's byte is ENCODE's value, since the code point is below 128 (rules R100, R101). -/
theorem encT1_data_eq {cp : CodePoint} (h : encInRange .t1 cp = true) :
    (cp.extractLsb' 0 7).setWidth 48 = BitVec.ofNat 48 (encodeSum .t1 cp.toNat) := by
  rw [encInRange_iff] at h
  have hcp : cp.toNat ≤ 127 := h.2
  apply BitVec.eq_of_toNat_eq
  simp [encodeSum, encodeByte, Tier.bytes]
  omega

/-- The case of the tier in whose range cp lies delivers ENCODE(cp) (rule R100). -/
theorem exec_encCase_eq_channelEncode {t : Tier} {cp : CodePoint} (h : encInRange t cp = true) (s : State) :
    exec (t.encCase cp) s = .next (s.setEnc (channelEncode cp)) := by
  rw [channelEncode_of_encInRange h]
  by_cases ht : t = .t1
  · subst ht
    rw [← encT1_data_eq h]
    exact exec_encT1 cp s
  · rw [exec_encCase ht, packBytes_encodedBytes ht]

/-- Rule R100 over every input: the selected case delivers ENCODE(cp), from every state. -/
theorem exec_selectEnc (cp : CodePoint) (s : State) :
    exec (selectEnc cp) s = .next (s.setEnc (channelEncode cp)) := by
  by_cases h : ∃ t, encInRange t cp = true
  · obtain ⟨t, ht⟩ := h
    rw [selectEnc_of_encInRange ht, exec_encCase_eq_channelEncode ht]
  · have outside : ∀ t, encInRange t cp = false := by simpa using h
    rw [selectEnc_of_no_range outside, channelEncode_of_no_range outside, exec_encErr]

/-- What is observed of an encode is ENCODE(cp), whatever the state (rules R30, R100). -/
theorem observeEnc_eq (cp : CodePoint) (s : State) : observeEnc cp s = some (channelEncode cp) := by
  unfold observeEnc
  rw [evaluate_enc, exec_selectEnc]
  rfl

/-! ### The decoder's cases compute DECODE (rule R140) -/

theorem channelDecode_of_decInRange {t : Tier} {p : Packed} (strict : Bool) (h : decInRange t p = true) :
    channelDecode strict p =
      if strict && badContinuation t p.toNat then decError
      else decOk t.bytes (BitVec.ofNat 32 (decodeValue t p.toNat)) := by
  unfold channelDecode
  rw [Tier.find?_all_eq_some h fun _ hu => decInRange_unique hu h]

theorem channelDecode_of_no_range {p : Packed} (strict : Bool) (h : ∀ t, decInRange t p = false) :
    channelDecode strict p = decError := by
  unfold channelDecode
  rw [Tier.find?_all_eq_none h]

/-- The code point that the case of a tier n ≥ 2 puts together from its payloads (rule R75). -/
def decodedCp (t : Tier) (p : Packed) : CodePoint :=
  (List.range (t.bytes - 1)).foldl
    (fun acc k => acc ||| contPayload (seqByte t.bytes p (k + 1)) (6 * (t.bytes - 1 - (k + 1))))
    (leadPayload t (seqByte t.bytes p 0))

theorem exec_decT1 (p : Packed) (s : State) :
    exec (.decT1 p) s = .next (s.setDec (decOk 1 ((p.extractLsb' 0 7).setWidth 32))) := rfl

theorem exec_decErr (p : Packed) (s : State) : exec (.decErr p) s = .next (s.setDec decError) := rfl

/-- Rules R142 to R146 as one: a case of a tier n ≥ 2 ends with the code point of its payloads. -/
theorem exec_decCase {t : Tier} (ht : t ≠ .t1) (p : Packed) (s : State) :
    exec (t.decCase p) s = .next (finishDec t p (decodedCp t p) s) := by
  cases t with
  | t1 => exact absurd rfl ht
  | _ => rfl

theorem toNat_seqByte (n : Nat) (p : Packed) (k : Nat) : (seqByte n p k).toNat = patternByte n p.toNat k :=
  toNat_byteLane p (n - 1 - k)

/-- The continuation bytes are b_1 to b_(n-1) (rules R64, R148). -/
theorem contBytes_eq (t : Tier) (p : Packed) :
    contBytes t p = (List.range (t.bytes - 1)).map fun k => seqByte t.bytes p (k + 1) := by
  cases t <;> rfl

/-- DECODE's strict test is the one that the cases make (rules R140, R148). -/
theorem badContinuation_eq (t : Tier) (p : Packed) :
    badContinuation t p.toNat = !(contBytes t p).all isContinuation := by
  have test (b : Byte) : isContinuation b = (b.toNat / 64 == 2) := by
    rw [Bool.eq_iff_iff, isContinuation_iff, beq_iff_eq]
  simp [badContinuation, contBytes_eq, List.all_map, List.not_all_eq_any_not, Function.comp_def, test, toNat_seqByte,
    bne]

theorem toNat_leadPayload_eq_and {t : Tier} (ht : t ≠ .t1) (b : Byte) :
    (leadPayload t b).toNat = (b.toNat &&& t.lmask.toNat) <<< (6 * (t.bytes - 1)) := by
  have hmask : t.lmask.toNat = 2 ^ (7 - t.bytes) - 1 := by
    cases t with
    | t1 => exact absurd rfl ht
    | _ => rfl
  rw [toNat_leadPayload t b ht, hmask, Nat.and_two_pow_sub_one_eq_mod, Nat.shiftLeft_eq, Tier.shift_eq]

theorem toNat_contPayload_eq_and (b : Byte) {lo : Nat} (h : lo ≤ 24) :
    (contPayload b lo).toNat = (b.toNat &&& 0x3F) <<< lo := by
  rw [toNat_contPayload b lo h, Nat.shiftLeft_eq]
  exact congrArg (· * 2 ^ lo) (Nat.and_two_pow_sub_one_eq_mod b.toNat 6).symm

/-- The payloads of a tier n ≥ 2 put together are DECODE's value, exactly (rules R8, R75, R140). -/
theorem toNat_decodedCp {t : Tier} (ht : t ≠ .t1) (p : Packed) :
    (decodedCp t p).toNat = decodeValue t p.toNat := by
  have place (k : Nat) : 6 * (t.bytes - 1 - (k + 1)) ≤ 24 := by
    have := Tier.bytes_le_six t
    omega
  unfold decodedCp decodeValue
  rw [if_neg (Tier.bytes_ne_one ht), ← toNat_seqByte, ← toNat_leadPayload_eq_and ht]
  refine (List.foldl_hom BitVec.toNat fun acc k => ?_).symm
  rw [BitVec.toNat_or, toNat_contPayload_eq_and _ (place k), toNat_seqByte]

/-- Tier 1's code point is DECODE's value (rules R140, R141). -/
theorem decT1_data_eq (p : Packed) :
    (p.extractLsb' 0 7).setWidth 32 = BitVec.ofNat 32 (decodeValue .t1 p.toNat) := by
  apply BitVec.eq_of_toNat_eq
  simp [decodeValue, Tier.bytes]

/-- The case of the tier in whose range P lies delivers DECODE(P), under the state's build (rules R140, R148). -/
theorem exec_decCase_eq_channelDecode {t : Tier} {p : Packed} (h : decInRange t p = true) (s : State) :
    exec (t.decCase p) s = .next (s.setDec (channelDecode s.build.decStrictCont p)) := by
  rw [channelDecode_of_decInRange _ h]
  by_cases ht : t = .t1
  · subst ht
    rw [← decT1_data_eq, show badContinuation .t1 p.toNat = false from rfl, Bool.and_false, if_neg Bool.false_ne_true]
    exact exec_decT1 p s
  · rw [exec_decCase ht, finishDec_eq, badContinuation_eq, ← toNat_decodedCp ht, BitVec.ofNat_toNat,
      BitVec.setWidth_eq]

/-- An in-range pattern that the build does not select has a bad continuation byte, so DECODE raises (rule R73). -/
theorem channelDecode_of_not_decSelects {strict : Bool} {t : Tier} {p : Packed} (h : decInRange t p = true)
    (hs : decSelects strict t p = false) : channelDecode strict p = decError := by
  have bad : (strict && badContinuation t p.toNat) = true := by
    rw [badContinuation_eq]
    simpa [decSelects, h] using hs
  rw [channelDecode_of_decInRange strict h, if_pos bad]

/-- Rule R140 over every input: the selected case delivers DECODE(P) under the state's build, from every state. -/
theorem exec_selectDec (p : Packed) (s : State) :
    exec (selectDec s.build.decStrictCont p) s = .next (s.setDec (channelDecode s.build.decStrictCont p)) := by
  by_cases selected : ∃ t, decSelects s.build.decStrictCont t p = true
  · obtain ⟨t, ht⟩ := selected
    rw [selectDec_of_decSelects ht, exec_decCase_eq_channelDecode (decInRange_of_decSelects ht)]
  · have unselected : ∀ t, decSelects s.build.decStrictCont t p = false := by simpa using selected
    have raises : channelDecode s.build.decStrictCont p = decError := by
      by_cases h : ∃ t, decInRange t p = true
      · obtain ⟨t, ht⟩ := h
        exact channelDecode_of_not_decSelects ht (unselected t)
      · exact channelDecode_of_no_range _ (by simpa using h)
    rw [selectDec_of_no_selection unselected, raises, exec_decErr]

/-- What is observed of a decode is DECODE(P) under the state's build, whatever else it holds (rules R30, R140). -/
theorem observeDec_eq (p : Packed) (s : State) :
    observeDec p s = some (channelDecode s.build.decStrictCont p) := by
  have h := exec_selectDec p (s.driveDec p)
  rw [driveDec_build] at h
  unfold observeDec
  rw [evaluate_dec, h]
  rfl

/-! ### Reset -/

/-- Settles O52: the fields are those of the reset record, and the first evaluation is one among all, each of which
gives the function value from whatever state (`observeEnc_eq`, `observeDec_eq`). -/
theorem resetHasNoObservationAndNoWarmUp : Obligations.ResetHasNoObservationAndNoWarmUp := by
  unfold Obligations.ResetHasNoObservationAndNoWarmUp
  refine ⟨fun c => ?undriven, ?reference, fun c cp => ?enc, fun c p => ?dec⟩
  case undriven =>
    exact ⟨resetOf_build c, resetOf_encCp c, resetOf_encOutputs c, resetOf_decIn c, resetOf_decOutputs c⟩
  case reference => rfl
  case enc => exact observeEnc_eq cp (State.resetOf c)
  case dec => exact observeDec_eq p (State.resetOf c)

end Sys2Proof.Machine
end

section
/-!
PROOFS. What a step does to the state, said once: it takes a presentation off the host's list and gives each port that
it drives its value and its channel function's value (`State.settle`). The invariants of the ports, the frames of the
cases and the result of a whole run follow from that.
-/
namespace Sys2Proof

/-- The length that a success of tier n drives is n, between 1 and 6 (rule R65). -/
theorem Tier.len_bounds (t : Tier) :
    1#3 ≤ BitVec.ofNat 3 t.bytes ∧ BitVec.ofNat 3 t.bytes ≤ 6#3 ∧ (BitVec.ofNat 3 t.bytes).toNat = t.bytes := by
  cases t <;> decide

/-! ### Selecting a well-formed case back from its word -/

theorem encInRange_of_cpMax_lt {cp : CodePoint} (h : Config.cpMax < cp) (t : Tier) : encInRange t cp = false := by
  have bound : t.encHi ≤ Config.cpMax := by cases t <;> decide
  rw [← Bool.not_eq_true, encInRange_iff]
  have h : Config.cpMax.toNat < cp.toNat := h
  have bound : t.encHi.toNat ≤ Config.cpMax.toNat := bound
  omega

/-- The port value of a well-formed case selects that case (rules R60, R80). -/
theorem decode_encode {strict : Bool} {i : Instr} (h : i.wf strict = true) : decode strict (encode i) = [i] := by
  have enc {t : Tier} {cp : CodePoint} (h : encInRange t cp = true) : decode strict (.enc cp) = [t.encCase cp] :=
    congrArg ([·]) (selectEnc_of_encInRange h)
  have dec {t : Tier} {p : Packed} (h : decSelects strict t p = true) : decode strict (.dec p) = [t.decCase p] :=
    congrArg ([·]) (selectDec_of_decSelects h)
  cases i with
  | encT1 cp => exact enc (t := .t1) h
  | encT2 cp => exact enc (t := .t2) h
  | encT3 cp => exact enc (t := .t3) h
  | encT4 cp => exact enc (t := .t4) h
  | encT5 cp => exact enc (t := .t5) h
  | encT6 cp => exact enc (t := .t6) h
  | encErr cp => exact congrArg ([·]) (selectEnc_of_no_range (encInRange_of_cpMax_lt (of_decide_eq_true h)))
  | decT1 p => exact dec (t := .t1) h
  | decT2 p => exact dec (t := .t2) h
  | decT3 p => exact dec (t := .t3) h
  | decT4 p => exact dec (t := .t4) h
  | decT5 p => exact dec (t := .t5) h
  | decT6 p => exact dec (t := .t6) h
  | decErr p =>
    have unselected (t : Tier) : decSelects strict t p = false := by
      simpa using List.all_eq_true.mp h t t.mem_all
    exact congrArg ([·]) (selectDec_of_no_selection unselected)

/-- A 32-bit word drives `enc_cp`. -/
theorem tableWord_32 {w : Nat} (h : w < 2 ^ 32) : tableWord 32 w = some (.enc (BitVec.ofNatLT w h)) := by
  rw [BitVec.ofNatLT_eq_ofNat]
  simp [tableWord, h]

/-- A 48-bit word drives `dec_in`. -/
theorem tableWord_48 {w : Nat} (h : w < 2 ^ 48) : tableWord 48 w = some (.dec (BitVec.ofNatLT w h)) := by
  rw [BitVec.ofNatLT_eq_ofNat]
  simp [tableWord, h]

end Sys2Proof

namespace Sys2Proof.Machine

open Sys2Proof

/-! ### What an evaluation, a step and a run leave -/

/-- The state after driving `enc_cp` with `e` and `dec_in` with `d`, each where it is a value: a driven port holds its
value and its channel's outputs are the function's value of it; the rest is as before (rules R26, R27). -/
def State.settle (e : Option CodePoint) (d : Option Packed) (s : State) : State :=
  { s with
    encCp := e.or s.encCp
    encOutputs := (e.map channelEncode).or s.encOutputs
    decIn := d.or s.decIn
    decOutputs := (d.map (channelDecode s.build.decStrictCont)).or s.decOutputs }

section
variable (e e' : Option CodePoint) (d d' : Option Packed) (s : State)

@[simp] theorem settle_build : (s.settle e d).build = s.build := rfl
@[simp] theorem settle_encCp : (s.settle e d).encCp = e.or s.encCp := rfl
@[simp] theorem settle_encOutputs : (s.settle e d).encOutputs = (e.map channelEncode).or s.encOutputs := rfl
@[simp] theorem settle_decIn : (s.settle e d).decIn = d.or s.decIn := rfl
@[simp] theorem settle_decOutputs :
    (s.settle e d).decOutputs = (d.map (channelDecode s.build.decStrictCont)).or s.decOutputs := rfl
@[simp] theorem settle_script : (s.settle e d).script = s.script := rfl

/-- Of two evaluations the later value of each port stands. -/
theorem settle_settle : (s.settle e d).settle e' d' = s.settle (e'.or e) (d'.or d) := by
  simp [State.settle, Option.map_or, Option.or_assoc]

end

/-- An evaluation settles the ports that its presentation drives, and answers a next state from every state
(rules R26, R27). -/
theorem evaluate_eq_settle (pr : Presentation) (s : State) :
    evaluate pr s = .next (s.settle (encValue pr) (decValue pr)) := by
  cases pr with
  | enc cp => exact (evaluate_enc cp s).trans (exec_selectEnc cp _)
  | dec p => exact (evaluate_dec p s).trans (exec_selectDec p (s.driveDec p))
  | both cp p =>
    have encoded := exec_selectEnc cp ((s.driveEnc cp).driveDec p)
    calc evaluate (.both cp p) s
      _ = runCases [selectEnc cp, selectDec s.build.decStrictCont p] ((s.driveEnc cp).driveDec p) := rfl
      _ = exec (selectDec s.build.decStrictCont p) (((s.driveEnc cp).driveDec p).setEnc (channelEncode cp)) :=
        runCases_two _ _ _ _ encoded
      _ = .next (s.settle (some cp) (some p)) :=
        exec_selectDec p (((s.driveEnc cp).driveDec p).setEnc (channelEncode cp))

theorem step_eq_settle {s : State} {pr : Presentation} {rest : List Presentation} (h : s.script = pr :: rest) :
    step s = .next (State.settle (encValue pr) (decValue pr) { s with script := rest }) :=
  (step_cons s pr rest h).trans (evaluate_eq_settle pr _)

/-- What a step can do: hold, or settle the ports of the presentation it takes off the list. -/
theorem step_cases {s t : State} (h : step s = .next t) :
    (s.script = [] ∧ t = s) ∨
    ∃ pr rest, s.script = pr :: rest ∧ t = State.settle (encValue pr) (decValue pr) { s with script := rest } := by
  cases hs : s.script with
  | nil =>
    rw [step_nil s hs] at h
    cases h
    exact .inl ⟨rfl, rfl⟩
  | cons pr rest =>
    rw [step_eq_settle hs] at h
    cases h
    exact .inr ⟨pr, rest, rfl, rfl⟩

theorem run_succ {s t : State} (h : step s = .next t) (k : Nat) :
    Host.Core.run Sys2Proof.core (k + 1) s = Host.Core.run Sys2Proof.core k t := by
  have h : Sys2Proof.core.step s = .next t := h
  simp only [Host.Core.run, h]

/-- The last value that a list presents: the one its tail presents, if any, else its head's. -/
theorem getLast?_filterMap_cons {α β : Type} (f : α → Option β) (a : α) (l : List α) :
    ((a :: l).filterMap f).getLast? = (l.filterMap f).getLast?.or (f a) := by
  cases h : f a with
  | none => simp [List.filterMap_cons_none h]
  | some b => simp [List.filterMap_cons_some h, List.getLast?_cons, Option.or_some]

/-- Running a whole list settles each port with the last value the list drives on it (rules R26, R27, R51). -/
theorem run_eq_settle (l : List Presentation) (s : State) :
    Host.Core.run Sys2Proof.core l.length { s with script := l } =
      .next (State.settle (l.filterMap encValue).getLast? (l.filterMap decValue).getLast?
        { s with script := [] }) := by
  induction l generalizing s with
  | nil => rfl
  | cons pr rest ih =>
    have first : step { s with script := pr :: rest } =
        .next { s.settle (encValue pr) (decValue pr) with script := rest } :=
      step_eq_settle (s := { s with script := pr :: rest }) rfl
    rw [getLast?_filterMap_cons, getLast?_filterMap_cons, ← settle_settle]
    exact (run_succ first rest.length).trans (ih _)

/-! ### Outputs that follow their input -/

theorem settle_outputsFollowInputs {s : State} (h : s.OutputsFollowInputs) (e : Option CodePoint) (d : Option Packed) :
    (s.settle e d).OutputsFollowInputs := by
  obtain ⟨henc, hdec⟩ := h
  exact ⟨by simp [henc, Option.map_or], by simp [hdec, Option.map_or]⟩

/-- Settles O54: holding changes nothing, and an evaluation writes a driven port's value and its function's value
together (`settle_outputsFollowInputs`). -/
theorem stepKeepsOutputsFollowingInputs : Obligations.StepKeepsOutputsFollowingInputs := by
  unfold Obligations.StepKeepsOutputsFollowingInputs
  intro s t hs hstep
  obtain ⟨-, rfl⟩ | ⟨pr, rest, -, rfl⟩ := step_cases hstep
  · exact hs
  · exact settle_outputsFollowInputs (s := { s with script := rest }) hs _ _

/-! ### The frames of the cases -/

/-- Settles O44: an ENC case writes one ENC triple, the same from every state (`exec_isEnc`). -/
theorem encoderCasesWriteOnlyTheirOutputs : Obligations.EncoderCasesWriteOnlyTheirOutputs := by
  unfold Obligations.EncoderCasesWriteOnlyTheirOutputs
  intro i s hi
  obtain ⟨o, ho⟩ := exec_isEnc i hi
  exact ⟨s.setEnc o, ho s, rfl, rfl, rfl, rfl, rfl, fun u => ⟨u.setEnc o, ho u, rfl⟩⟩

/-- Settles O45: a DEC case writes one DEC triple, which is a function of the build (`exec_isDec`). -/
theorem decoderCasesWriteOnlyTheirOutputs : Obligations.DecoderCasesWriteOnlyTheirOutputs := by
  unfold Obligations.DecoderCasesWriteOnlyTheirOutputs
  intro i s hi
  obtain ⟨o, ho⟩ := exec_isDec i hi
  exact ⟨s.setDec (o s.build), ho s, rfl, rfl, rfl, rfl, rfl, fun u hu =>
    ⟨u.setDec (o u.build), ho u, by rw [hu]; rfl⟩⟩

/-- An ENC case and a DEC case write different outputs, and neither writes the build, so their order does not matter. -/
theorem runCases_swap {i j : Instr} (hi : isEncCase i = true) (hj : isEncCase j = false) (s : State) :
    runCases [i, j] s = runCases [j, i] s := by
  obtain ⟨e, he⟩ := exec_isEnc i hi
  obtain ⟨d, hd⟩ := exec_isDec j hj
  calc runCases [i, j] s
    _ = exec j (s.setEnc e) := runCases_two _ _ _ _ (he s)
    _ = .next ((s.setEnc e).setDec (d s.build)) := hd _
    _ = .next ((s.setDec (d s.build)).setEnc e) := by rw [setEnc_setDec_comm]
    _ = exec i (s.setDec (d s.build)) := (he _).symm
    _ = runCases [j, i] s := (runCases_two _ _ _ _ (hd s)).symm

/-- The law vector's code point is out of range. -/
theorem channelEncode_0x80000000 : channelEncode 0x80000000#32 = encError := by decide

/-- The law vector's pattern is 0x80 in both builds. -/
theorem channelDecode_0xC280 (strict : Bool) : channelDecode strict 0xC280#48 = ⟨0#2, 2#3, 0x80#32⟩ := by
  cases strict <;> decide

/-- Settles O46: the cases commute (`runCases_swap`), and an evaluation of both ports leaves on each channel the
function's value that its own evaluation observes (`evaluate_eq_settle`). -/
theorem channelsAreIndependent : Obligations.ChannelsAreIndependent := by
  unfold Obligations.ChannelsAreIndependent
  refine ⟨fun i j s hi hj => runCases_swap hi hj s, fun cp p s => ?both, fun s => ?vector⟩
  case both =>
    exact ⟨_, evaluate_eq_settle (.both cp p) s, (observeEnc_eq cp s).symm, (observeDec_eq p s).symm⟩
  case vector =>
    refine ⟨_, evaluate_eq_settle _ s, ?_, ?_⟩
    · simp [encValue, channelEncode_0x80000000, encError, statusInvalidCodepoint]
    · simp [decValue, channelDecode_0xC280]

/-! ### Outputs of the forms that the port rules give -/

theorem encOk_legal (t : Tier) {out : Packed} (h : out.toNat < 2 ^ (8 * t.bytes)) : (encOk t.bytes out).Legal := by
  obtain ⟨hlo, hhi, hlen⟩ := Tier.len_bounds t
  exact .inl ⟨rfl, hlo, hhi, by rwa [encOk, hlen]⟩

theorem encError_legal : encError.Legal := .inr ⟨rfl, rfl, rfl⟩

theorem decOk_legal (t : Tier) {cp : CodePoint} (h : cp ≤ Config.cpMax) : (decOk t.bytes cp).Legal := by
  obtain ⟨hlo, hhi, -⟩ := Tier.len_bounds t
  exact .inl ⟨rfl, hlo, hhi, h⟩

theorem decError_legal : decError.Legal := .inr ⟨rfl, rfl, rfl⟩

/-- ENCODE's value of tier n has no bit from 8n up (rule R63). -/
theorem toNat_encodeSum_lt (t : Tier) (cp : CodePoint) :
    (BitVec.ofNat 48 (encodeSum t cp.toNat)).toNat < 2 ^ (8 * t.bytes) := by
  by_cases ht : t = .t1
  · subst ht
    have byte : encodeSum .t1 cp.toNat = cp.toNat % 256 := by simp [encodeSum, encodeByte, Tier.bytes]
    rw [byte, BitVec.toNat_ofNat]
    exact Nat.lt_of_le_of_lt (Nat.mod_le _ _) (Nat.mod_lt _ (by decide))
  · have hlen : (encodedBytes t cp).length = t.bytes := by simp [encodedBytes]
    rw [← packBytes_encodedBytes ht, ← hlen]
    exact toNat_packBytes_lt _ (hlen ▸ Tier.bytes_le_six t)

/-- DECODE's code point has 31 bits at most: every payload lies below bit 31, so their OR does (rules R75, R149). -/
theorem decodeValue_lt (t : Tier) (p : Nat) : decodeValue t p < 2 ^ 31 := by
  unfold decodeValue
  split
  · omega
  · refine List.foldlRecOn (motive := (· < 2 ^ 31)) _ _ ?lead fun acc hacc k _ => Nat.or_lt_two_pow hacc ?cont
    case lead =>
      have hmask : t.lmask.toNat <<< (6 * (t.bytes - 1)) < 2 ^ 31 := by
        cases t with
        | t1 => contradiction
        | _ => decide
      refine Nat.lt_of_le_of_lt ?_ hmask
      rw [Nat.shiftLeft_eq, Nat.shiftLeft_eq]
      exact Nat.mul_le_mul_right _ Nat.and_le_right
    case cont =>
      have place : 6 * (t.bytes - 1 - (k + 1)) ≤ 24 := by
        have := Tier.bytes_le_six t
        omega
      rw [Nat.shiftLeft_eq]
      calc (patternByte t.bytes p (k + 1) &&& 0x3F) * 2 ^ (6 * (t.bytes - 1 - (k + 1)))
        _ ≤ 0x3F * 2 ^ 24 := Nat.mul_le_mul Nat.and_le_right (Nat.pow_le_pow_right (by decide) place)
        _ < 2 ^ 31 := by decide

/-- Every value of ENCODE has a legal form (rules R24, R63, R205). -/
theorem channelEncode_legal (cp : CodePoint) : (channelEncode cp).Legal := by
  by_cases h : ∃ t, encInRange t cp = true
  · obtain ⟨t, ht⟩ := h
    rw [channelEncode_of_encInRange ht]
    exact encOk_legal t (toNat_encodeSum_lt t cp)
  · rw [channelEncode_of_no_range (by simpa using h)]
    exact encError_legal

/-- Every value of DECODE has a legal form (rules R25, R64, R205). -/
theorem channelDecode_legal (strict : Bool) (p : Packed) : (channelDecode strict p).Legal := by
  by_cases h : ∃ t, decInRange t p = true
  · obtain ⟨t, ht⟩ := h
    rw [channelDecode_of_decInRange strict ht]
    split
    · exact decError_legal
    · refine decOk_legal t (BitVec.le_def.mpr ?_)
      calc (BitVec.ofNat 32 (decodeValue t p.toNat)).toNat
        _ ≤ decodeValue t p.toNat := BitVec.toNat_ofNat _ _ ▸ Nat.mod_le _ _
        _ ≤ 2 ^ 31 - 1 := Nat.le_sub_one_of_lt (decodeValue_lt t p.toNat)
  · rw [channelDecode_of_no_range strict (by simpa using h)]
    exact decError_legal

theorem settle_outputsLegal {s : State} (h : s.OutputsLegal) (e : Option CodePoint) (d : Option Packed) :
    (s.settle e d).OutputsLegal := by
  obtain ⟨henc, hdec⟩ := h
  refine ⟨fun o ho => ?enc, fun o ho => ?dec⟩
  case enc =>
    cases e with
    | none => exact henc o ho
    | some cp =>
      cases ho
      exact channelEncode_legal cp
  case dec =>
    cases d with
    | none => exact hdec o ho
    | some p =>
      cases ho
      exact channelDecode_legal s.build.decStrictCont p

/-- Settles O55: the outputs a step writes are values of ENCODE and DECODE, all of which have a legal form
(`channelEncode_legal`, `channelDecode_legal`). -/
theorem stepKeepsOutputsLegal : Obligations.StepKeepsOutputsLegal := by
  unfold Obligations.StepKeepsOutputsLegal
  intro s t hs hstep
  obtain ⟨-, rfl⟩ | ⟨pr, rest, -, rfl⟩ := step_cases hstep
  · exact hs
  · exact settle_outputsLegal (s := { s with script := rest }) hs _ _

/-! ### The build, whole runs, the step and reset -/

/-- Settles O56: neither holding nor settling the ports writes the build. -/
theorem buildParameterNeverChanges : Obligations.BuildParameterNeverChanges := by
  unfold Obligations.BuildParameterNeverChanges
  intro s t hstep
  obtain ⟨-, rfl⟩ | ⟨pr, rest, -, rfl⟩ := step_cases hstep <;> rfl

/-- Settles O57: a run settles each port with the last value driven on it (`run_eq_settle`, by induction on the host's
list); with no such value the port is as before. -/
theorem runLeavesEachPortItsLastInput : Obligations.RunLeavesEachPortItsLastInput := by
  unfold Obligations.RunLeavesEachPortItsLastInput
  intro s
  refine ⟨_, run_eq_settle s.script s, rfl, rfl, ?enc, ?dec⟩
  case enc => cases (s.script.filterMap encValue).getLast? <;> exact ⟨rfl, rfl⟩
  case dec => cases (s.script.filterMap decValue).getLast? <;> exact ⟨rfl, rfl⟩

/-- Settles O50: a well-formed case's word selects that case alone (`decode_encode`); both ports at once select two,
run in turn. -/
theorem stepRunsTheSelectedCase : Obligations.StepRunsTheSelectedCase := by
  unfold Obligations.StepRunsTheSelectedCase
  refine ⟨fun s i rest hi hs => ?one, fun s cp p rest hs => ?both, step_nil⟩
  case one =>
    calc step s
      _ = evaluate (encode i) { s with script := rest } := step_cons s (encode i) rest hs
      _ = runCases [i] (State.drive (encode i) { s with script := rest }) := by rw [← decode_encode hi]; rfl
      _ = exec i (State.drive (encode i) { s with script := rest }) := runCases_one i _
  case both =>
    have henc := exec_selectEnc cp { s with script := rest, encCp := some cp, decIn := some p }
    exact ⟨_, henc, (step_cons s _ rest hs).trans (runCases_two _ _ _ _ henc)⟩

/-- Settles O51: the stored word stands first on the host's list (`tableWord_32`, `tableWord_48`), and the step
evaluates its port. -/
theorem storedTableWordRunsNext : Obligations.StoredTableWordRunsNext := by
  unfold Obligations.StoredTableWordRunsNext State.withFetchWord presentWord
  refine ⟨fun s w h => ?enc, fun s w h => ?dec⟩
  case enc =>
    rw [tableWord_32 h]
    exact (step_presentNext _ s).trans (evaluate_enc _ s)
  case dec =>
    rw [tableWord_48 h]
    exact (step_presentNext _ s).trans (evaluate_dec _ s)

/-- Settles O53: at reset no port is driven and none has outputs. -/
theorem outputInvariantsHoldAtReset : Obligations.OutputInvariantsHoldAtReset := by
  unfold Obligations.OutputInvariantsHoldAtReset
  intro c
  exact ⟨⟨rfl, rfl⟩, by simp [State.OutputsLegal]⟩

end Sys2Proof.Machine
end

section
/-!
PROOFS. The packed value as the memory of a byte sequence: which byte each lane holds (rules R43, R44), that a `DECB`
drives the packed value alone (rule R45), and that an evaluation reads and writes its own ports only, so that it
completes (R47), can be repeated (R49) and can be interleaved (R51).
-/
namespace Sys2Proof.Machine

open Sys2Proof

/-! ### Which byte each lane of a packed value holds -/

/-- The byte at place n-1-k of a big-endian number of n bytes is byte k. -/
theorem bigEndian_byte (bs : List Byte) (k : Nat) (h : k < bs.length) :
    bigEndian bs / 2 ^ (8 * (bs.length - 1 - k)) % 256 = bs[k].toNat := by
  induction bs using List.reverseRecOn with
  | nil => cases h
  | append_singleton bs b ih =>
    have hb := b.isLt
    simp only [List.length_append, List.length_singleton] at h
    rw [bigEndian_append_singleton, List.length_append, List.length_singleton]
    by_cases hk : k < bs.length
    · have place : 8 * (bs.length + 1 - 1 - k) = 8 + 8 * (bs.length - 1 - k) := by omega
      have drop : (bigEndian bs * 2 ^ 8 + b.toNat) / 2 ^ 8 = bigEndian bs := by omega
      rw [place, Nat.pow_add, ← Nat.div_div_eq_div_mul, drop, ih hk, List.getElem_append_left hk]
    · obtain rfl : k = bs.length := by omega
      rw [show 8 * (bs.length + 1 - 1 - bs.length) = 0 by omega, List.getElem_concat_length rfl]
      omega

/-- Byte k of a sequence of n ≤ 6 bytes sits in lane n-1-k of the packed value (rules R10, R43). -/
theorem byteLane_packBytes (bs : List Byte) (h6 : bs.length ≤ 6) (k : Nat) (h : k < bs.length) :
    byteLane (packBytes bs) (bs.length - 1 - k) = bs[k] := by
  apply BitVec.eq_of_toNat_eq
  rw [toNat_byteLane, toNat_packBytes bs h6, bigEndian_byte bs k h]

theorem byteLane_eq_zero {p : Packed} {n j : Nat} (hp : p.toNat < 2 ^ (8 * n)) (hj : n ≤ j) : byteLane p j = 0#8 := by
  have hlt : p.toNat < 2 ^ (8 * j) := Nat.lt_of_lt_of_le hp (Nat.pow_le_pow_right (by decide) (by omega))
  apply BitVec.eq_of_toNat_eq
  rw [toNat_byteLane, Nat.div_eq_of_lt hlt]
  rfl

theorem length_laneBytes (n : Nat) (p : Packed) : (laneBytes n p).length = n := by simp [laneBytes]

theorem getElem_laneBytes (n : Nat) (p : Packed) (k : Nat) (h : k < (laneBytes n p).length) :
    (laneBytes n p)[k] = byteLane p (n - 1 - k) := by simp [laneBytes, seqByte]

/-- Reading the n lanes of a value of n ≤ 6 bytes and packing them gives the value back (rules R43, R44): lanes below n
hold the bytes read, and those from n up are zero on both sides. -/
theorem packBytes_laneBytes {n : Nat} {p : Packed} (h6 : n ≤ 6) (hp : p.toNat < 2 ^ (8 * n)) :
    packBytes (laneBytes n p) = p := by
  have hlen : (laneBytes n p).length = n := length_laneBytes n p
  refine packed_ext fun j _ => ?_
  by_cases hj : j < n
  · have hk : n - 1 - j < (laneBytes n p).length := by omega
    have lane := byteLane_packBytes (laneBytes n p) (by omega) (n - 1 - j) hk
    rwa [getElem_laneBytes, hlen, show n - 1 - (n - 1 - j) = j by omega] at lane
  · have packed_lt := toNat_packBytes_lt (laneBytes n p) (by omega)
    rw [hlen] at packed_lt
    rw [byteLane_eq_zero packed_lt (by omega), byteLane_eq_zero hp (by omega)]

/-- A big-endian number is the sum of its list's bytes at their places (rule R43). -/
theorem bigEndian_eq_sum (bs : List Byte) :
    bigEndian bs = ((List.range bs.length).map fun k => bs[k]!.toNat * 2 ^ (8 * (bs.length - 1 - k))).sum := by
  have bytes : (List.range bs.length).map (fun k => bs[k]!) = bs :=
    List.ext_getElem (by simp) fun k _ hk => by simp [hk]
  calc bigEndian bs
    _ = bigEndian ((List.range bs.length).map fun k => bs[k]!) := by rw [bytes]
    _ = _ := by simp only [bigEndian_map_range, Nat.shiftLeft_eq]

/-- Settles O12: the lanes of a packed value are its bytes (`byteLane_packBytes`), its number is the big-endian one
(`bigEndian_eq_sum`), and the lanes read back pack to the same value (`packBytes_laneBytes`). -/
theorem packedBytesSitRightAlignedBigEndian : Obligations.PackedBytesSitRightAlignedBigEndian := by
  unfold Obligations.PackedBytesSitRightAlignedBigEndian
  refine ⟨fun bs h6 => ⟨?lanes, ?above, ?value⟩, fun n p h6 hp => ⟨?length, ?inverse⟩, ?sample⟩
  case lanes => exact byteLane_packBytes bs h6
  case above => exact Nat.div_eq_of_lt (toNat_packBytes_lt bs h6)
  case value => exact (toNat_packBytes bs h6).trans (bigEndian_eq_sum bs)
  case length => exact length_laneBytes n p
  case inverse => exact packBytes_laneBytes h6 hp
  case sample => decide

/-! ### `DECB` drives the packed value alone -/

/-- A list of 1 to 6 bytes meets neither of the conditions that reject a `DECB` (rule R81). -/
theorem decb_accepts {bs : List Byte} (h1 : 1 ≤ bs.length) (h6 : bs.length ≤ 6) :
    ¬ bs.isEmpty = true ∧ ¬ Config.packBytesMax < bs.length :=
  ⟨fun h => List.ne_nil_of_length_pos h1 (List.isEmpty_iff.mp h), Nat.not_lt.mpr h6⟩

theorem decb_eq_ok {bs : List Byte} (h1 : 1 ≤ bs.length) (h6 : bs.length ≤ 6) :
    decb bs = .ok (.dec (packBytes bs)) := by
  obtain ⟨nonempty, fits⟩ := decb_accepts h1 h6
  rw [decb, if_neg nonempty, if_neg fits]

theorem decodeBytes_eq_ok {bs : List Byte} (strict : Bool) (h1 : 1 ≤ bs.length) (h6 : bs.length ≤ 6) :
    decodeBytes strict bs = .ok (selectDec strict (packBytes bs)) := by
  obtain ⟨nonempty, fits⟩ := decb_accepts h1 h6
  rw [decodeBytes, if_neg nonempty, if_neg fits]

/-- A leading 0x00 byte leaves packing's accumulator at 0 (rule R45). -/
theorem packBytes_zero_cons (bs : List Byte) : packBytes (0x00#8 :: bs) = packBytes bs := rfl

theorem channelDecode_0x0041 (strict : Bool) :
    channelDecode strict (packBytes [0x00#8, 0x41#8]) = ⟨0#2, 1#3, 0x41#32⟩ := by
  cases strict <;> decide

/-- Settles O13: neither the port value nor the selection depends on the bytes other than through the packed value
(`decb_eq_ok`, `decodeBytes_eq_ok`), which a leading 0x00 does not change. -/
theorem byteArraysArePackedWithoutTheirLength : Obligations.ByteArraysArePackedWithoutTheirLength := by
  unfold Obligations.ByteArraysArePackedWithoutTheirLength
  refine ⟨fun bs h1 h6 => ⟨?drives, fun strict => ?selects⟩, fun bs _ => ?zero, fun s => ?sample⟩
  case drives => exact decb_eq_ok h1 h6
  case selects => exact decodeBytes_eq_ok strict h1 h6
  case zero => exact packBytes_zero_cons bs
  case sample => rw [observeDec_eq, channelDecode_0x0041]

/-! ### Evaluations complete, repeat and interleave -/

/-- Evaluating a presentation again from the state it led to changes nothing (rule R49). -/
theorem evaluate_again {pr : Presentation} {s t : State} (h : evaluate pr s = .next t) : evaluate pr t = .next t := by
  rw [evaluate_eq_settle] at h
  cases h
  rw [evaluate_eq_settle, settle_settle, Option.or_self, Option.or_self]

/-- Settles O48: an evaluation settles the ports its presentation drives (`evaluate_eq_settle`); settling them twice with
the same values is settling them once (`evaluate_again`), and a port that is not driven stays as it was. -/
theorem evaluationIsIdempotent : Obligations.EvaluationIsIdempotent := by
  unfold Obligations.EvaluationIsIdempotent
  intro pr s t h
  have again := evaluate_again h
  rw [evaluate_eq_settle] at h
  cases h
  refine ⟨again, settle_build _ _ s, settle_script _ _ s, fun undriven => ?enc, fun undriven => ?dec⟩
  case enc => rw [undriven]; exact ⟨rfl, rfl⟩
  case dec => rw [undriven]; exact ⟨rfl, rfl⟩

/-- Settles O58: a whole run depends on its list through the last value of each port alone (`run_eq_settle`). -/
theorem interleavingsGiveTheSameResult : Obligations.InterleavingsGiveTheSameResult := by
  unfold Obligations.InterleavingsGiveTheSameResult
  intro s l m henc hdec
  rw [run_eq_settle, run_eq_settle, henc, hdec]

/-- 0xC28000 lies between the ranges of tiers 2 and 3 (rule R47). -/
theorem channelDecode_0xC28000 (strict : Bool) : channelDecode strict 0xC28000#48 = decError := by
  have outside (t : Tier) : decInRange t 0xC28000#48 = false := by cases t <;> decide
  exact channelDecode_of_no_range strict outside

/-- Settles O40: every evaluation settles its ports (`evaluate_eq_settle`), and 0xC28000 lies in no range. -/
theorem everyPresentationCompletes : Obligations.EveryPresentationCompletes := by
  unfold Obligations.EveryPresentationCompletes
  refine ⟨fun pr s => ⟨_, evaluate_eq_settle pr s⟩, fun s => ?_⟩
  rw [observeDec_eq, channelDecode_0xC28000]
  rfl

end Sys2Proof.Machine
end

section
/-!
PROOFS. Selection as the spec writes it in several ways: by ranges (rules R66, R69), by masks on the high bits
(rules R67, R71), by the highest set bit (R68), byte by byte (R72) and with continuation bytes (R73); and that each port
value is one case (R80). A mask test on the bits from k up asks for one block of 2^k values, so each of these is a
comparison of numbers.
-/
namespace Sys2Proof

open Machine

/-! ### Masks, bounds and high bits of a word -/

/-- A mask test on the bits from k up asks for one block of 2^k values (rules R67, R71). -/
theorem and_highMask_eq_iff {w k : Nat} (x v : BitVec w) (hv : 2 ^ k ∣ v.toNat) :
    x &&& BitVec.allOnes w <<< k = v ↔ v.toNat ≤ x.toNat ∧ x.toNat < v.toNat + 2 ^ k := by
  obtain ⟨c, hc⟩ := hv
  have hpos : 0 < 2 ^ k := Nat.two_pow_pos k
  have hlt : x.toNat / 2 ^ k * 2 ^ k < 2 ^ w := Nat.lt_of_le_of_lt (Nat.div_mul_le_self _ _) x.isLt
  have masked : (x &&& BitVec.allOnes w <<< k).toNat = 2 ^ k * (x.toNat / 2 ^ k) := by
    rw [← BitVec.shiftLeft_ushiftRight, BitVec.toNat_shiftLeft, BitVec.toNat_ushiftRight, Nat.shiftRight_eq_div_pow,
      Nat.shiftLeft_eq, Nat.mod_eq_of_lt hlt, Nat.mul_comm]
  rw [← BitVec.toNat_inj, masked, hc, Nat.mul_right_inj hpos.ne', Nat.div_eq_iff hpos, Nat.mul_comm c]
  omega

theorem and_highMask_eq_zero_iff {w : Nat} (x : BitVec w) (k : Nat) :
    x &&& BitVec.allOnes w <<< k = 0#w ↔ x.toNat < 2 ^ k := by
  simp [and_highMask_eq_iff]

/-- A word below 2^k has no bit from k up. -/
theorem toNat_lt_two_pow_iff_getLsbD {w : Nat} (x : BitVec w) (k : Nat) :
    x.toNat < 2 ^ k ↔ ∀ i, k ≤ i → x.getLsbD i = false := by
  constructor
  · intro h i hi
    exact Nat.testBit_lt_two_pow (Nat.lt_of_lt_of_le h (Nat.pow_le_pow_right (by decide) hi))
  · exact fun h => Nat.lt_pow_two_of_testBit _ h

/-- The slice that holds every bit from k up is 0 exactly when the word is below 2^k. -/
theorem extractLsb'_eq_zero_iff {w k n : Nat} (x : BitVec w) (hw : w ≤ k + n) :
    x.extractLsb' k n = 0#n ↔ x.toNat < 2 ^ k := by
  have hlt : x.toNat / 2 ^ k < 2 ^ n :=
    Nat.div_lt_of_lt_mul (Nat.lt_of_lt_of_le x.isLt (Nat.pow_add 2 k n ▸ Nat.pow_le_pow_right (by decide) hw))
  rw [← BitVec.toNat_inj, BitVec.extractLsb'_toNat, Nat.shiftRight_eq_div_pow, Nat.mod_eq_of_lt hlt, BitVec.toNat_zero,
    Nat.div_eq_zero_iff]
  exact or_iff_right (Nat.two_pow_pos k).ne'

/-- Bit 31 of a code point is 0 exactly below 2^31 (rule R62). -/
theorem getLsbD_31_eq_false_iff (cp : CodePoint) : cp.getLsbD 31 = false ↔ cp.toNat < 2 ^ 31 := by
  rw [toNat_lt_two_pow_iff_getLsbD]
  constructor
  · intro h i hi
    rcases Nat.eq_or_lt_of_le hi with rfl | hi
    · exact h
    · exact BitVec.getLsbD_of_ge cp i hi
  · exact fun h => h 31 (Nat.le_refl 31)

theorem getLsbD_31_eq_true_iff (cp : CodePoint) : cp.getLsbD 31 = true ↔ Config.cpMax < cp := by
  have above : Config.cpMax < cp ↔ ¬ cp.toNat < 2 ^ 31 := by
    rw [BitVec.lt_def, show Config.cpMax.toNat = 2 ^ 31 - 1 from rfl]
    omega
  rw [above, ← getLsbD_31_eq_false_iff, Bool.not_eq_false]

/-- Settles O1: bit 31 alone stands from 2^31 up, so it is 0 exactly below 2^31 (`getLsbD_31_eq_false_iff`). -/
theorem outOfRangeBitIsBit31 : Obligations.OutOfRangeBitIsBit31 := by
  unfold Obligations.OutOfRangeBitIsBit31
  refine fun cp => ⟨getLsbD_31_eq_true_iff cp, fun hbit => ?_⟩
  have hlt : cp.toNat < 2 ^ 31 := (getLsbD_31_eq_false_iff cp).mp hbit
  apply BitVec.eq_of_toNat_eq
  simp only [BitVec.toNat_setWidth, BitVec.extractLsb'_toNat, Nat.shiftRight_zero]
  omega

/-! ### Selection on the encoder channel -/

/-- The payload bits of a tier (rule R68). -/
def Tier.payloadBits (t : Tier) : Nat := if t = .t1 then 7 else 5 * t.bytes + 1

theorem Tier.encHi_add_one (t : Tier) : t.encHi.toNat + 1 = 2 ^ t.payloadBits := by cases t <;> rfl

/-- A statement of every tier is six statements. -/
theorem Tier.forall_iff (P : Tier → Prop) : (∀ t, P t) ↔ P .t1 ∧ P .t2 ∧ P .t3 ∧ P .t4 ∧ P .t5 ∧ P .t6 := by
  constructor
  · exact fun h => ⟨h .t1, h .t2, h .t3, h .t4, h .t5, h .t6⟩
  · rintro ⟨h1, h2, h3, h4, h5, h6⟩ t
    cases t <;> assumption

/-- The ENC ranges leave no gap up to `CP_MAX` (rule R66). -/
theorem exists_encInRange_iff (cp : CodePoint) : (∃ t, encInRange t cp = true) ↔ cp ≤ Config.cpMax := by
  constructor
  · rintro ⟨t, ht⟩
    by_contra above
    rw [encInRange_of_cpMax_lt (BitVec.not_le.mp above) t] at ht
    cases ht
  · intro h
    by_contra outside
    simp only [not_exists, Tier.forall_iff, encInRange_iff, Tier.encLo, Tier.encHi, BitVec.toNat_ofNat] at outside
    simp only [BitVec.le_def, BitVec.toNat_ofNat] at h
    omega

theorem selectEnc_of_cpMax_lt {cp : CodePoint} (h : Config.cpMax < cp) : selectEnc cp = .encErr cp :=
  selectEnc_of_no_range (encInRange_of_cpMax_lt h)

/-- What the encoder channel selects is well-formed and its word is the value driven (rule R80). -/
theorem selectEnc_wf_and_word (strict : Bool) (cp : CodePoint) :
    (selectEnc cp).wf strict = true ∧ encode (selectEnc cp) = .enc cp := by
  by_cases h : ∃ t, encInRange t cp = true
  · obtain ⟨t, ht⟩ := h
    rw [selectEnc_of_encInRange ht, wf_encCase, encode_encCase]
    exact ⟨ht, rfl⟩
  · rw [exists_encInRange_iff, BitVec.not_le] at h
    rw [selectEnc_of_cpMax_lt h]
    exact ⟨decide_eq_true h, rfl⟩

/-- ENC.ERR is selected by the code points above `CP_MAX` alone (rules R66, R77). -/
theorem selectEnc_eq_encErr_iff (cp : CodePoint) : selectEnc cp = .encErr cp ↔ Config.cpMax < cp := by
  refine ⟨fun h => ?_, selectEnc_of_cpMax_lt⟩
  obtain ⟨hwf, -⟩ := selectEnc_wf_and_word false cp
  rw [h] at hwf
  exact of_decide_eq_true hwf

/-- Settles O2: the ranges do not overlap (`encInRange_unique`) and leave no gap up to `CP_MAX`
(`exists_encInRange_iff`). -/
theorem encoderSelectsTheOneTierInRange : Obligations.EncoderSelectsTheOneTierInRange := by
  unfold Obligations.EncoderSelectsTheOneTierInRange
  exact fun cp => ⟨fun _ => selectEnc_of_encInRange, fun _ _ => encInRange_unique, exists_encInRange_iff cp,
    selectEnc_of_cpMax_lt⟩

/-- The encoder's multiplexer by the upper bounds alone: the ranges are contiguous (rule R66). -/
theorem selectEnc_eq_ite_lt (cp : CodePoint) :
    selectEnc cp =
      if cp.toNat < 2 ^ 7 then .encT1 cp
      else if cp.toNat < 2 ^ 11 then .encT2 cp
      else if cp.toNat < 2 ^ 16 then .encT3 cp
      else if cp.toNat < 2 ^ 21 then .encT4 cp
      else if cp.toNat < 2 ^ 26 then .encT5 cp
      else if cp.toNat < 2 ^ 31 then .encT6 cp
      else .encErr cp := by
  have tier (t : Tier) (lo : t.encLo.toNat ≤ cp.toNat) (hi : cp.toNat < t.encHi.toNat + 1) :
      selectEnc cp = t.encCase cp :=
    selectEnc_of_encInRange ((encInRange_iff t cp).mpr ⟨lo, Nat.le_of_lt_succ hi⟩)
  split_ifs with h1 h2 h3 h4 h5 h6
  · exact tier .t1 (Nat.zero_le _) h1
  · exact tier .t2 (Nat.le_of_not_lt h1) h2
  · exact tier .t3 (Nat.le_of_not_lt h2) h3
  · exact tier .t4 (Nat.le_of_not_lt h3) h4
  · exact tier .t5 (Nat.le_of_not_lt h4) h5
  · exact tier .t6 (Nat.le_of_not_lt h5) h6
  · exact selectEnc_of_cpMax_lt (Nat.le_of_not_lt h6 : Config.cpMax.toNat + 1 ≤ cp.toNat)

/-- Settles O3: each mask test is the upper bound of its row's range (`and_highMask_eq_zero_iff`), and the multiplexer
goes by the upper bounds (`selectEnc_eq_ite_lt`). -/
theorem encoderPriorityMasksSelectTheSame : Obligations.EncoderPriorityMasksSelectTheSame := by
  unfold Obligations.EncoderPriorityMasksSelectTheSame
  intro cp
  have m1 : cp &&& 0xFFFFFF80#32 = 0#32 ↔ cp.toNat < 2 ^ 7 := and_highMask_eq_zero_iff cp 7
  have m2 : cp &&& 0xFFFFF800#32 = 0#32 ↔ cp.toNat < 2 ^ 11 := and_highMask_eq_zero_iff cp 11
  have m3 : cp &&& 0xFFFF0000#32 = 0#32 ↔ cp.toNat < 2 ^ 16 := and_highMask_eq_zero_iff cp 16
  have m4 : cp &&& 0xFFE00000#32 = 0#32 ↔ cp.toNat < 2 ^ 21 := and_highMask_eq_zero_iff cp 21
  have m5 : cp &&& 0xFC000000#32 = 0#32 ↔ cp.toNat < 2 ^ 26 := and_highMask_eq_zero_iff cp 26
  have m6 : cp &&& 0x80000000#32 = 0#32 ↔ cp.toNat < 2 ^ 31 := and_highMask_eq_zero_iff cp 31
  have e6 : cp &&& 0x80000000#32 = 0x80000000#32 ↔ cp.getLsbD 31 = true := by
    rw [← Bool.not_eq_false, getLsbD_31_eq_false_iff, Nat.not_lt]
    have block : cp &&& 0x80000000#32 = 0x80000000#32 ↔ 2 ^ 31 ≤ cp.toNat ∧ cp.toNat < 2 ^ 31 + 2 ^ 31 :=
      and_highMask_eq_iff (k := 31) cp 0x80000000#32 (by decide)
    exact block.trans (and_iff_left cp.isLt)
  simp only [m1, m2, m3, m4, m5, m6, e6]
  refine ⟨selectEnc_eq_ite_lt cp, ?err, ?s1, ?s2, ?s3, ?s4, ?s5, ?s6, trivial⟩
  case err => rw [selectEnc_eq_encErr_iff, getLsbD_31_eq_true_iff]
  case s1 => exact (extractLsb'_eq_zero_iff (k := 7) cp (by decide)).symm
  case s2 => exact (extractLsb'_eq_zero_iff (k := 11) cp (by decide)).symm
  case s3 => exact (extractLsb'_eq_zero_iff (k := 16) cp (by decide)).symm
  case s4 => exact (extractLsb'_eq_zero_iff (k := 21) cp (by decide)).symm
  case s5 => exact (extractLsb'_eq_zero_iff (k := 26) cp (by decide)).symm
  case s6 => exact (getLsbD_31_eq_false_iff cp).symm

/-- Settles O4: with h the highest set bit, cp is below 2^(k+1) exactly when h ≤ k, and the multiplexer goes by these
bounds (`selectEnc_eq_ite_lt`). -/
theorem encoderTierByHighestSetBit : Obligations.EncoderTierByHighestSetBit := by
  unfold Obligations.EncoderTierByHighestSetBit
  refine ⟨by decide, fun cp h hset hclear => ?_, Tier.encHi_add_one⟩
  have bound (k : Nat) : cp.toNat < 2 ^ (k + 1) ↔ h ≤ k := by
    rw [toNat_lt_two_pow_iff_getLsbD]
    constructor
    · intro clear
      by_contra hk
      rw [clear h (by omega)] at hset
      cases hset
    · exact fun hk i hi => hclear i (by omega)
  rw [selectEnc_eq_ite_lt]
  simp only [bound 6, bound 10, bound 15, bound 20, bound 25, bound 30]

/-! ### Selection on the decoder channel -/

/-- What the decoder channel selects is well-formed and its word is the value driven (rule R80). -/
theorem selectDec_wf_and_word (strict : Bool) (p : Packed) :
    (selectDec strict p).wf strict = true ∧ encode (selectDec strict p) = .dec p := by
  by_cases h : ∃ t, decSelects strict t p = true
  · obtain ⟨t, ht⟩ := h
    rw [selectDec_of_decSelects ht, wf_decCase, encode_decCase]
    exact ⟨ht, rfl⟩
  · have unselected : ∀ t, decSelects strict t p = false := by simpa using h
    rw [selectDec_of_no_selection unselected]
    exact ⟨List.all_eq_true.mpr fun t _ => by rw [unselected t]; rfl, rfl⟩

/-- A tier's DEC case is selected exactly when the build selects the tier (rules R69, R73). -/
theorem selectDec_eq_decCase_iff (strict : Bool) (t : Tier) (p : Packed) :
    selectDec strict p = t.decCase p ↔ decSelects strict t p = true := by
  refine ⟨fun h => ?_, selectDec_of_decSelects⟩
  obtain ⟨hwf, -⟩ := selectDec_wf_and_word strict p
  rwa [h, wf_decCase] at hwf

/-- DEC.ERR is selected exactly when the build selects no tier (rule R147). -/
theorem selectDec_eq_decErr_iff (strict : Bool) (p : Packed) :
    selectDec strict p = .decErr p ↔ ∀ t, decSelects strict t p = false := by
  refine ⟨fun h t => ?_, selectDec_of_no_selection⟩
  obtain ⟨hwf, -⟩ := selectDec_wf_and_word strict p
  rw [h] at hwf
  simpa using List.all_eq_true.mp hwf t t.mem_all

theorem selectDec_of_no_range {p : Packed} (strict : Bool) (h : ∀ t, decInRange t p = false) :
    selectDec strict p = .decErr p :=
  selectDec_of_no_selection fun t => by simp [decSelects, h t]

/-- The six gaps between and above the DEC ranges (rule R70). -/
theorem no_decInRange_iff_gap (p : Packed) :
    (∀ t, decInRange t p = false) ↔
      (0x80#48 ≤ p ∧ p ≤ 0xC07F#48) ∨ (0xDFC0#48 ≤ p ∧ p ≤ 0xE0807F#48) ∨
      (0xEFBFC0#48 ≤ p ∧ p ≤ 0xF080807F#48) ∨ (0xF7BFBFC0#48 ≤ p ∧ p ≤ 0xF88080807F#48) ∨
      (0xFBBFBFBFC0#48 ≤ p ∧ p ≤ 0xFC808080807F#48) ∨ (0xFDBFBFBFBFC0#48 ≤ p ∧ p ≤ 0xFFFFFFFFFFFF#48) := by
  have hp := p.isLt
  simp only [Tier.forall_iff, ← Bool.not_eq_true, decInRange_iff, Tier.decLo, Tier.decHi, BitVec.le_def,
    BitVec.toNat_ofNat]
  omega

/-- Settles O5: at most one range holds P, and DEC.ERR is the case of no selected tier (`selectDec_eq_decErr_iff`),
which the permissive build has exactly in the gaps (`no_decInRange_iff_gap`). -/
theorem decoderSelectsByPackedRange : Obligations.DecoderSelectsByPackedRange := by
  unfold Obligations.DecoderSelectsByPackedRange
  refine ⟨fun _ _ _ => decInRange_unique, fun t u h => ?ordered, fun p t h => ?permissive,
    fun _ _ _ => selectDec_of_decSelects, fun strict _ => selectDec_of_no_range strict, fun p => ?gaps⟩
  case ordered => exact Tier.decHi_lt_decLo (by omega)
  case permissive => exact selectDec_of_decSelects ((decSelects_false t p).trans h)
  case gaps => rw [selectDec_eq_decErr_iff, ← no_decInRange_iff_gap]; simp only [decSelects_false]

/-! ### Leading tags -/

/-- The bits that a tier's leading-tag mask leaves free: 7 for tier 1, else 7-n of the leading byte and the trailing
bytes (rule R71). -/
def Tier.freeBits (t : Tier) : Nat := if t = .t1 then 7 else 8 * (t.bytes - 1) + (7 - t.bytes)

/-- A leading-tag match asks for one block of values (rule R71). -/
theorem tagMatches_iff (t : Tier) (p : Packed) :
    p &&& t.tagMask = t.tagMatch ↔
      t.tagMatch.toNat ≤ p.toNat ∧ p.toNat < t.tagMatch.toNat + 2 ^ t.freeBits := by
  have mask : t.tagMask = BitVec.allOnes 48 <<< t.freeBits := by cases t <;> rfl
  rw [mask]
  exact and_highMask_eq_iff p t.tagMatch (by cases t <;> decide)

theorem Tier.tagBlock_lt {t u : Tier} (h : t.bytes < u.bytes) :
    t.tagMatch.toNat + 2 ^ t.freeBits ≤ u.tagMatch.toNat := by
  have table : ∀ t ∈ Tier.all, ∀ u ∈ Tier.all, t.bytes < u.bytes →
    t.tagMatch.toNat + 2 ^ t.freeBits ≤ u.tagMatch.toNat := by decide
  exact table t t.mem_all u u.mem_all h

/-- A packed value matches at most one leading tag. -/
theorem tagMatches_unique {t u : Tier} {p : Packed} (ht : p &&& t.tagMask = t.tagMatch)
    (hu : p &&& u.tagMask = u.tagMatch) : t = u := by
  rw [tagMatches_iff] at ht hu
  rcases Nat.lt_trichotomy t.bytes u.bytes with h | h | h
  · have := Tier.tagBlock_lt h
    omega
  · exact Tier.bytes_injective h
  · have := Tier.tagBlock_lt h
    omega

/-- A tier's range lies in the block of its leading tag (rule R71). -/
theorem tagMatches_of_decInRange {t : Tier} {p : Packed} (h : decInRange t p = true) :
    p &&& t.tagMask = t.tagMatch := by
  have block : t.tagMatch.toNat ≤ t.decLo.toNat ∧ t.decHi.toNat < t.tagMatch.toNat + 2 ^ t.freeBits := by
    cases t <;> decide
  rw [decInRange_iff] at h
  rw [tagMatches_iff]
  omega

/-- With nothing above its n bytes, the leading byte is what stands above the trailing ones (rule R72). -/
theorem toNat_seqByte_zero {n : Nat} {p : Packed} (hn : n ≠ 0) (hp : p.toNat < 2 ^ (8 * n)) :
    (seqByte n p 0).toNat = p.toNat / 2 ^ (8 * (n - 1)) := by
  have hlt : p.toNat / 2 ^ (8 * (n - 1)) < 256 := by
    rw [Nat.div_lt_iff_lt_mul (Nat.two_pow_pos _), show 256 = 2 ^ 8 from rfl, ← Nat.pow_add,
      show 8 + 8 * (n - 1) = 8 * n by omega]
    exact hp
  exact (toNat_byteLane p (n - 1)).trans (Nat.mod_eq_of_lt hlt)

theorem Tier.bytes_ne_zero (t : Tier) : t.bytes ≠ 0 := by cases t <;> decide

theorem toNat_lt_of_decInRange {t : Tier} {p : Packed} (h : decInRange t p = true) : p.toNat < 2 ^ (8 * t.bytes) := by
  have bound : t.decHi.toNat < 2 ^ (8 * t.bytes) := by cases t <;> decide
  rw [decInRange_iff] at h
  omega

/-- The largest leading byte of a tier (rules R71, R72). -/
def Tier.leadMax (t : Tier) : Byte := if t = .t1 then 0x7F#8 else t.tag ||| t.lmask

theorem leadByte_bounds_of_decInRange {t : Tier} {p : Packed} (h : decInRange t p = true) :
    t.tag ≤ seqByte t.bytes p 0 ∧ seqByte t.bytes p 0 ≤ t.leadMax := by
  have ends : t.decLo.toNat / 2 ^ (8 * (t.bytes - 1)) = t.tag.toNat ∧
      t.decHi.toNat / 2 ^ (8 * (t.bytes - 1)) = t.leadMax.toNat := by cases t <;> decide
  obtain ⟨hlo, hhi⟩ := ends
  have hlt := toNat_lt_of_decInRange h
  rw [decInRange_iff] at h
  rw [BitVec.le_def, BitVec.le_def, toNat_seqByte_zero t.bytes_ne_zero hlt, ← hlo, ← hhi]
  exact ⟨Nat.div_le_div_right h.1, Nat.div_le_div_right h.2⟩

/-- The range of tier 1 is the seven low bits (rules R71, R72). -/
theorem decInRange_t1_iff (p : Packed) : decInRange .t1 p = true ↔ p.toNat < 2 ^ 7 := by
  rw [decInRange_iff]
  simp only [Tier.decLo, Tier.decHi, BitVec.toNat_ofNat]
  omega

/-- A value that matches a tier's tag outside its range lies in no range, since it matches no other tag (rule R71). -/
theorem selectDec_of_tag_outside_range (strict : Bool) {t : Tier} {p : Packed} (htag : p &&& t.tagMask = t.tagMatch)
    (hout : decInRange t p = false) : selectDec strict p = .decErr p := by
  refine selectDec_of_no_range strict fun u => ?_
  rw [← Bool.not_eq_true]
  intro hu
  obtain rfl := tagMatches_unique htag (tagMatches_of_decInRange hu)
  exact Bool.false_ne_true (hout.symm.trans hu)

/-- Settles O6: a range lies in its tag's block (`tagMatches_of_decInRange`), and a value in the block outside the range
lies in no other range (`selectDec_of_tag_outside_range`). -/
theorem rangeMatchImpliesLeadingTag : Obligations.RangeMatchImpliesLeadingTag := by
  unfold Obligations.RangeMatchImpliesLeadingTag
  refine ⟨fun t p h => ⟨tagMatches_of_decInRange h, leadByte_bounds_of_decInRange h⟩, fun p => ?tier1,
    fun strict t p => selectDec_of_tag_outside_range strict, fun p hp => ?samples, by decide⟩
  case tier1 => exact (decInRange_t1_iff p).trans (and_highMask_eq_zero_iff p 7).symm
  case samples =>
    obtain rfl | rfl : p = 0xC07F#48 ∨ p = 0xDFC0#48 := by simpa using hp
    · exact ⟨by decide, selectDec_of_tag_outside_range false (t := .t2) (by decide) (by decide)⟩
    · exact ⟨by decide, selectDec_of_tag_outside_range false (t := .t2) (by decide) (by decide)⟩

/-! ### The range byte by byte -/

/-- Two numbers compare by what stands above a place, then by what stands below it. -/
theorem mul_add_le_mul_add_iff {B x y : Nat} (a c : Nat) (hx : x < B) (hy : y < B) :
    a * B + x ≤ c * B + y ↔ a ≤ c ∧ (a = c → x ≤ y) := by
  rcases Nat.lt_trichotomy a c with h | rfl | h
  · have := Nat.mul_le_mul_right B (Nat.succ_le_of_lt h)
    rw [Nat.succ_mul] at this
    omega
  · omega
  · have := Nat.mul_le_mul_right B (Nat.succ_le_of_lt h)
    rw [Nat.succ_mul] at this
    omega

/-- The end values of a range of tier n ≥ 2: an end value of the leading byte, then n-1 bytes 0x80 or 0xBF (R72). -/
theorem Tier.dec_ends {t : Tier} (ht : t ≠ .t1) :
    t.decLo.toNat = t.tag.toNat * 2 ^ (8 * (t.bytes - 1)) +
      (packBytes (List.replicate (t.bytes - 1) 0x80#8)).toNat ∧
    t.decHi.toNat = (t.tag ||| t.lmask).toNat * 2 ^ (8 * (t.bytes - 1)) +
      (packBytes (List.replicate (t.bytes - 1) 0xBF#8)).toNat := by
  cases t with
  | t1 => exact absurd rfl ht
  | _ => decide

theorem toNat_packBytes_replicate_lt (t : Tier) (b : Byte) :
    (packBytes (List.replicate (t.bytes - 1) b)).toNat < 2 ^ (8 * (t.bytes - 1)) := by
  have h6 := t.bytes_le_six
  have h := toNat_packBytes_lt (List.replicate (t.bytes - 1) b) (by rw [List.length_replicate]; omega)
  rwa [List.length_replicate] at h

/-- Rule R72: a range of tier n ≥ 2 read byte by byte. -/
theorem decInRange_iff_bytes {t : Tier} (ht : t ≠ .t1) (p : Packed) :
    decInRange t p = true ↔
      p.toNat / 2 ^ (8 * t.bytes) = 0 ∧
      t.tag ≤ seqByte t.bytes p 0 ∧ seqByte t.bytes p 0 ≤ t.tag ||| t.lmask ∧
      (seqByte t.bytes p 0 = t.tag →
        (packBytes (List.replicate (t.bytes - 1) 0x80#8)).toNat ≤ p.toNat % 2 ^ (8 * (t.bytes - 1))) ∧
      (seqByte t.bytes p 0 = t.tag ||| t.lmask →
        p.toNat % 2 ^ (8 * (t.bytes - 1)) ≤ (packBytes (List.replicate (t.bytes - 1) 0xBF#8)).toNat) := by
  rw [Nat.div_eq_zero_iff, or_iff_right (Nat.two_pow_pos _).ne', ← and_iff_right_of_imp toNat_lt_of_decInRange]
  refine and_congr_right fun hlt => ?_
  obtain ⟨hlo, hhi⟩ := Tier.dec_ends ht
  have split : p.toNat = (seqByte t.bytes p 0).toNat * 2 ^ (8 * (t.bytes - 1)) + p.toNat % 2 ^ (8 * (t.bytes - 1)) := by
    rw [toNat_seqByte_zero t.bytes_ne_zero hlt, Nat.div_add_mod']
  have trailing : p.toNat % 2 ^ (8 * (t.bytes - 1)) < 2 ^ (8 * (t.bytes - 1)) := Nat.mod_lt _ (Nat.two_pow_pos _)
  have lower := mul_add_le_mul_add_iff t.tag.toNat (seqByte t.bytes p 0).toNat
    (toNat_packBytes_replicate_lt t 0x80#8) trailing
  have upper := mul_add_le_mul_add_iff (seqByte t.bytes p 0).toNat (t.tag ||| t.lmask).toNat
    trailing (toNat_packBytes_replicate_lt t 0xBF#8)
  rw [← hlo, ← split] at lower
  rw [← hhi, ← split] at upper
  rw [decInRange_iff, lower, upper, BitVec.toNat_inj, BitVec.toNat_inj, eq_comm (a := t.tag), and_and_and_comm,
    and_assoc]
  exact Iff.rfl

/-- Settles O7: P is compared with a range's ends by its leading byte and then by its trailing number
(`decInRange_iff_bytes`). -/
theorem permissiveRangeReadByteByByte : Obligations.PermissiveRangeReadByteByByte := by
  unfold Obligations.PermissiveRangeReadByteByByte
  refine ⟨fun t p ht => decInRange_iff_bytes ht p, fun t p ht habove hlo hhi => ?between, fun p => ?tier1⟩
  case between =>
    exact (decInRange_iff_bytes ht p).mpr ⟨habove, BitVec.le_of_lt hlo, BitVec.le_of_lt hhi,
      fun h => absurd h.symm (BitVec.ne_of_lt hlo), fun h => absurd h (BitVec.ne_of_lt hhi)⟩
  case tier1 => exact (decInRange_t1_iff p).trans (extractLsb'_eq_zero_iff (k := 7) p (by decide)).symm

/-! ### Strict selection -/

/-- Every continuation byte has the form `10xxxxxx` (rules R73, R148). -/
theorem all_isContinuation_iff (t : Tier) (p : Packed) :
    (contBytes t p).all isContinuation = true ↔
      ∀ k, 1 ≤ k → k < t.bytes → (seqByte t.bytes p k).extractLsb' 6 2 = 0b10#2 := by
  simp only [contBytes_eq, List.all_map, List.all_eq_true, List.mem_range, Function.comp_apply, isContinuation,
    beq_iff_eq]
  constructor
  · intro h k h1 hk
    have := h (k - 1) (by omega)
    rwa [Nat.sub_add_cancel h1] at this
  · exact fun h k hk => h (k + 1) (by omega) (by omega)

/-- Strict selection is the range test with continuation bytes (rule R73). -/
theorem decSelects_true_iff (t : Tier) (p : Packed) :
    decSelects true t p = true ↔
      decInRange t p = true ∧ ∀ k, 1 ≤ k → k < t.bytes → (seqByte t.bytes p k).extractLsb' 6 2 = 0b10#2 := by
  rw [decSelects_true, Bool.and_eq_true, all_isContinuation_iff]

/-- A mask test bounds a word: the masked bits from below, the free bits from above. -/
theorem bounds_of_and_eq {w : Nat} {x m v : BitVec w} (h : x &&& m = v) : v ≤ x ∧ x ≤ v ||| ~~~m := by
  subst h
  constructor
  · exact BitVec.le_def.mpr (BitVec.toNat_and x m ▸ Nat.and_le_left)
  · have free : x &&& m ||| ~~~m = x ||| ~~~m := by
      ext i
      simp only [BitVec.getElem_or, BitVec.getElem_and, BitVec.getElem_not]
      cases m[i] <;> simp
    rw [free, BitVec.le_def, BitVec.toNat_or]
    exact Nat.left_le_or

theorem isContinuation_iff_and (b : Byte) : isContinuation b = true ↔ b &&& 0xC0#8 = 0x80#8 := by
  have block : b &&& 0xC0#8 = 0x80#8 ↔ 128 ≤ b.toNat ∧ b.toNat < 128 + 2 ^ 6 :=
    and_highMask_eq_iff (k := 6) b 0x80#8 (by decide)
  rw [isContinuation_iff, block]
  omega

/-- The continuation bytes stand in the lanes below the leading byte's (rules R10, R64). -/
theorem all_isContinuation_iff_lanes (t : Tier) (p : Packed) :
    (contBytes t p).all isContinuation = true ↔ ∀ j < t.bytes - 1, byteLane p j &&& 0xC0#8 = 0x80#8 := by
  simp only [contBytes_eq, List.all_map, List.all_eq_true, List.mem_range, Function.comp_apply, seqByte,
    isContinuation_iff_and]
  constructor
  · intro h j hj
    have byte := h (t.bytes - 1 - (j + 1)) (by omega)
    rwa [show t.bytes - 1 - (t.bytes - 1 - (j + 1) + 1) = j by omega] at byte
  · exact fun h k hk => h (t.bytes - 1 - (k + 1)) (by omega)

/-- The strict mask asks for the leading tag and, in each trailing lane, for `10` on top (rule R73). -/
theorem strictMatches_iff (t : Tier) (p : Packed) :
    p &&& t.strictMask = t.strictMatch ↔
      p &&& t.tagMask = t.tagMatch ∧ (contBytes t p).all isContinuation = true := by
  have trailing : ∀ t ∈ Tier.all, ∀ j < t.bytes - 1,
      byteLane t.strictMask j = 0xC0#8 ∧ byteLane t.strictMatch j = 0x80#8 ∧
      byteLane t.tagMask j = 0#8 ∧ byteLane t.tagMatch j = 0#8 := by decide
  have leading : ∀ t ∈ Tier.all, ∀ j < 6, ¬ j < t.bytes - 1 →
      byteLane t.strictMask j = byteLane t.tagMask j ∧ byteLane t.strictMatch j = byteLane t.tagMatch j := by decide
  have h6 := t.bytes_le_six
  rw [and_eq_iff_lanes, and_eq_iff_lanes p t.tagMask, all_isContinuation_iff_lanes]
  constructor
  · intro h
    refine ⟨fun j hj => ?_, fun j hj => ?_⟩
    · by_cases low : j < t.bytes - 1
      · obtain ⟨-, -, hmask, hmatch⟩ := trailing t t.mem_all j low
        rw [hmask, hmatch, BitVec.and_zero]
      · obtain ⟨hmask, hmatch⟩ := leading t t.mem_all j hj low
        rw [← hmask, ← hmatch, h j hj]
    · obtain ⟨hmask, hmatch, -⟩ := trailing t t.mem_all j hj
      rw [← hmask, ← hmatch, h j (by omega)]
  · rintro ⟨htag, hcont⟩ j hj
    by_cases low : j < t.bytes - 1
    · obtain ⟨hmask, hmatch, -⟩ := trailing t t.mem_all j low
      rw [hmask, hmatch, hcont j low]
    · obtain ⟨hmask, hmatch⟩ := leading t t.mem_all j hj low
      rw [hmask, hmatch, htag j hj]

/-- Strict selection is one mask test (rule R73). -/
theorem decSelects_true_iff_and (t : Tier) (p : Packed) :
    decSelects true t p = true ↔ p &&& t.strictMask = t.strictMatch := by
  rw [decSelects_true, Bool.and_eq_true, strictMatches_iff]
  refine ⟨fun ⟨hrange, hcont⟩ => ⟨tagMatches_of_decInRange hrange, hcont⟩, fun h => ⟨?_, h.2⟩⟩
  have ends : t.strictMatch = t.decLo ∧ t.strictMatch ||| ~~~t.strictMask = t.decHi := by cases t <;> decide
  obtain ⟨hlo, hhi⟩ := bounds_of_and_eq ((strictMatches_iff t p).mpr h)
  rw [decInRange_iff, ← ends.1, ← ends.2]
  exact ⟨hlo, hhi⟩

/-- Settles O8: strict selection is one mask test per tier (`decSelects_true_iff_and`), and no other tier can select an
in-range P with a bad continuation byte. -/
theorem strictSelectionIsItsMaskTable : Obligations.StrictSelectionIsItsMaskTable := by
  unfold Obligations.StrictSelectionIsItsMaskTable
  have mask (t : Tier) (p : Packed) : selectDec true p = t.decCase p ↔ p &&& t.strictMask = t.strictMatch :=
    (selectDec_eq_decCase_iff true t p).trans (decSelects_true_iff_and t p)
  refine ⟨decSelects_true_iff, fun t p hrange ⟨k, h1, hk, hbad⟩ => ?bad, fun p =>
    ⟨mask .t1 p, mask .t2 p, mask .t3 p, mask .t4 p, mask .t5 p, mask .t6 p⟩⟩
  case bad =>
    refine selectDec_of_no_selection fun u => ?_
    rw [← Bool.not_eq_true]
    intro hu
    obtain rfl := decInRange_unique hrange (decInRange_of_decSelects hu)
    exact hbad (((decSelects_true_iff t p).mp hu).2 k h1 hk)

/-! ### Words of the cases -/

/-- Settles O9: fourteen evaluations of the selection. -/
theorem tableWordsSelectTheirRows : Obligations.TableWordsSelectTheirRows := by
  unfold Obligations.TableWordsSelectTheirRows
  decide

/-- Settles O10, by cases on the constructor: the operand of a well-formed case lies in its tier's range, which selects
that tier and no other (`decode_encode`). -/
theorem decodeOfEncodeIsTheCase : Obligations.DecodeOfEncodeIsTheCase := by
  unfold Obligations.DecodeOfEncodeIsTheCase
  exact fun _ _ => decode_encode

/-- Settles O11: a selected case is well-formed and carries the port value (`selectEnc_wf_and_word`,
`selectDec_wf_and_word`), and running it delivers its channel's function value (`exec_selectEnc`, `exec_selectDec`). -/
theorem everyPortValueIsOneCase : Obligations.EveryPortValueIsOneCase := by
  unfold Obligations.EveryPortValueIsOneCase
  refine ⟨fun strict cp => ?enc, fun strict p => ?dec, fun cp s => ⟨_, _, exec_selectEnc cp s, rfl⟩,
    fun p s => ⟨_, _, exec_selectDec p s, rfl⟩⟩
  case enc =>
    obtain ⟨hwf, hword⟩ := selectEnc_wf_and_word strict cp
    exact ⟨hwf, hword, isEncCase_selectEnc cp⟩
  case dec =>
    obtain ⟨hwf, hword⟩ := selectDec_wf_and_word strict p
    exact ⟨hwf, hword, isEncCase_selectDec strict p⟩

end Sys2Proof
end

section
/-!
PROOFS. The fields of the encoder and the decoder: which slice of the code point each byte carries (rule R74), which
payload bit each bit of the code point comes from (rule R75), and which patterns decode without being an encoding (R79).
-/
namespace Sys2Proof.Machine

open Sys2Proof

/-! ### The encoder's bytes -/

/-- A continuation byte carries its 6-bit slice (rule R74). -/
theorem contByte_eq (cp : CodePoint) (lo : Nat) :
    contByte cp lo = (cp.extractLsb' lo 6).setWidth 8 ||| 0x80#8 := by
  have slice : (cp >>> lo &&& 0x3F#32).setWidth 8 = (cp.extractLsb' lo 6).setWidth 8 := by
    apply BitVec.eq_of_toNat_eq
    simp only [BitVec.toNat_setWidth, BitVec.toNat_and, BitVec.toNat_ushiftRight, BitVec.extractLsb'_toNat]
    exact congrArg (· % 2 ^ 8) (Nat.and_two_pow_sub_one_eq_mod (cp.toNat >>> lo) 6)
  rw [contByte, slice]

/-- A tier's lead field and its 6-bit slices are its payload (rule R68). -/
theorem leadBits_add_shift {t : Tier} (ht : t ≠ .t1) : 7 - t.bytes + t.shift = t.payloadBits := by
  cases t with
  | t1 => exact absurd rfl ht
  | _ => rfl

theorem toNat_lt_payloadBits {t : Tier} {cp : CodePoint} (h : encInRange t cp = true) :
    cp.toNat < 2 ^ t.payloadBits := by
  rw [← Tier.encHi_add_one]
  exact Nat.lt_succ_of_le ((encInRange_iff t cp).mp h).2

/-- Inside its tier the lead field has 7-n bits (rules R74, R108). -/
theorem toNat_leadField_lt {t : Tier} {cp : CodePoint} (ht : t ≠ .t1) (h : encInRange t cp = true) :
    (cp >>> t.shift).toNat < 2 ^ (7 - t.bytes) := by
  rw [BitVec.toNat_ushiftRight, Nat.shiftRight_eq_div_pow, Nat.div_lt_iff_lt_mul (Nat.two_pow_pos _), ← Nat.pow_add,
    leadBits_add_shift ht]
  exact toNat_lt_payloadBits h

/-- The leading byte carries its 7-n bit slice (rule R74). -/
theorem leadByte_eq {t : Tier} {cp : CodePoint} (ht : t ≠ .t1) (h : encInRange t cp = true) :
    leadByte t cp = (cp.extractLsb' t.shift (7 - t.bytes)).setWidth 8 ||| t.tag := by
  have slice : (cp >>> t.shift).setWidth 8 = (cp.extractLsb' t.shift (7 - t.bytes)).setWidth 8 := by
    apply BitVec.eq_of_toNat_eq
    rw [BitVec.toNat_setWidth, BitVec.toNat_setWidth, BitVec.extractLsb'_toNat, ← BitVec.toNat_ushiftRight,
      Nat.mod_eq_of_lt (toNat_leadField_lt ht h)]
  rw [leadByte, BitVec.setWidth_or, slice, BitVec.setWidth_setWidth_of_le _ (by decide), BitVec.setWidth_eq]

/-- Placing the leading byte in 8 bits loses nothing inside its tier (rules R74, R108). -/
theorem setWidth_leadByte {t : Tier} {cp : CodePoint} (ht : t ≠ .t1) (h : encInRange t cp = true) :
    (leadByte t cp).setWidth 32 = cp >>> t.shift ||| t.tag.setWidth 32 := by
  have field : (cp >>> t.shift).toNat < 2 ^ 8 :=
    Nat.lt_of_lt_of_le (toNat_leadField_lt ht h) (Nat.pow_le_pow_right (by decide) (by omega))
  have tag : (t.tag.setWidth 32).toNat < 2 ^ 8 := by
    rw [BitVec.toNat_setWidth]
    exact Nat.lt_of_le_of_lt (Nat.mod_le _ _) t.tag.isLt
  apply BitVec.eq_of_toNat_eq
  have fits : (cp >>> t.shift ||| t.tag.setWidth 32).toNat < 2 ^ 8 := by
    rw [BitVec.toNat_or]
    exact Nat.or_lt_two_pow field tag
  rw [leadByte, BitVec.toNat_setWidth, BitVec.toNat_setWidth, Nat.mod_eq_of_lt fits, Nat.mod_eq_of_lt (by omega)]

theorem length_encodedBytes (t : Tier) (cp : CodePoint) : (encodedBytes t cp).length = t.bytes := by
  simp [encodedBytes]

/-- Byte k of a packed encoding is byte k of the bytes that were packed (rules R43, R74). -/
theorem seqByte_packBytes_encodedBytes (t : Tier) (cp : CodePoint) {k : Nat} (hk : k < t.bytes) :
    seqByte t.bytes (packBytes (encodedBytes t cp)) k =
      if k = 0 then leadByte t cp else contByte cp (6 * (t.bytes - 1 - k)) := by
  have hlen := length_encodedBytes t cp
  have lane := byteLane_packBytes (encodedBytes t cp) (hlen ▸ t.bytes_le_six) k (hlen ▸ hk)
  simp only [hlen] at lane
  rw [seqByte, lane]
  simp [encodedBytes]

theorem byteLane_encodedBytes_eq_zero {t : Tier} (ht : t ≠ .t1) (cp : CodePoint) {j : Nat} (hj : t.bytes ≤ j) :
    byteLane (packBytes (encodedBytes t cp)) j = 0#8 :=
  byteLane_eq_zero (packBytes_encodedBytes ht cp ▸ toNat_encodeSum_lt t cp) hj

/-- Tier 1's byte is the code point (rule R101). -/
theorem toNat_encT1_data {cp : CodePoint} (h : encInRange .t1 cp = true) :
    ((cp.extractLsb' 0 7).setWidth 48 : Packed).toNat = cp.toNat := by
  have hlt : cp.toNat < 2 ^ 7 := toNat_lt_payloadBits h
  simp only [BitVec.toNat_setWidth, BitVec.extractLsb'_toNat, Nat.shiftRight_zero]
  omega

/-- Settles O22: a tier n ≥ 2 packs its lead field and slices (`leadByte_eq`, `contByte_eq`), byte k in its own lane
(`seqByte_packBytes_encodedBytes`); tier 1 delivers the code point itself. -/
theorem encodedBytesAreLeadAndSlices : Obligations.EncodedBytesAreLeadAndSlices := by
  unfold Obligations.EncodedBytesAreLeadAndSlices
  intro t cp s h
  by_cases ht : t = .t1
  · subst ht
    have hlt : cp.toNat < 2 ^ 7 := toNat_lt_payloadBits h
    refine ⟨_, exec_encT1 cp s, fun _ => ?byte, absurd rfl, fun k h1 hk => absurd hk (Nat.not_lt.mpr h1),
      fun j hj => ?above⟩
    case byte =>
      apply BitVec.eq_of_toNat_eq
      rw [BitVec.toNat_setWidth, toNat_seqByte, toNat_encT1_data h]
      simp [patternByte, Tier.bytes]
      omega
    case above =>
      refine byteLane_eq_zero (n := 1) ?_ hj
      rw [toNat_encT1_data h]
      omega
  · refine ⟨_, exec_encCase ht cp s, (absurd · ht), fun _ => ?lead, fun k h1 hk => ?slice,
      fun j => byteLane_encodedBytes_eq_zero ht cp⟩
    case lead =>
      rw [seqByte_packBytes_encodedBytes t cp (Nat.pos_of_ne_zero t.bytes_ne_zero), if_pos rfl, ← Tier.shift_eq]
      exact ⟨leadByte_eq ht h, setWidth_leadByte ht h⟩
    case slice =>
      rw [seqByte_packBytes_encodedBytes t cp hk, if_neg (by omega), contByte_eq]

/-! ### The decoder's bits -/

/-- A bit of the decoded code point is a bit of some payload (rule R75). -/
theorem getLsbD_decodedCp (t : Tier) (p : Packed) (i : Nat) :
    (decodedCp t p).getLsbD i =
      ((leadPayload t (seqByte t.bytes p 0)).getLsbD i ||
        (List.range (t.bytes - 1)).any fun k =>
          (contPayload (seqByte t.bytes p (k + 1)) (6 * (t.bytes - 1 - (k + 1)))).getLsbD i) := by
  unfold decodedCp
  generalize List.range (t.bytes - 1) = ks
  generalize leadPayload t (seqByte t.bytes p 0) = acc
  induction ks generalizing acc with
  | nil => simp
  | cons k ks ih => rw [List.foldl_cons, ih, BitVec.getLsbD_or, List.any_cons, Bool.or_assoc]

/-- A continuation payload at bit 6m has the bits 6m to 6m+5: bit i comes from bit i mod 6 of its byte (rule R75). -/
theorem getLsbD_contPayload_lane (p : Packed) {m : Nat} (hm : m ≤ 4) (i : Nat) :
    (contPayload (byteLane p m) (6 * m)).getLsbD i = true ↔ i / 6 = m ∧ p.getLsbD (8 * m + i % 6) = true := by
  rw [getLsbD_contPayload, getLsbD_byteLane]
  simp only [Bool.and_eq_true, decide_eq_true_eq]
  constructor
  · rintro ⟨-, hlo, hhi, -, hbit⟩
    exact ⟨by omega, by rwa [show i % 6 = i - 6 * m by omega]⟩
  · rintro ⟨rfl, hbit⟩
    rw [show i - 6 * (i / 6) = i % 6 by omega]
    exact ⟨by omega, by omega, by omega, by omega, hbit⟩

/-- The lead payload has the 7-n bits from 6(n-1) up, those of its byte (rule R75). -/
theorem getLsbD_leadPayload_lane {t : Tier} (ht : t ≠ .t1) (p : Packed) (i : Nat) :
    (leadPayload t (byteLane p (t.bytes - 1))).getLsbD i = true ↔
      6 * (t.bytes - 1) ≤ i ∧ i < 6 * (t.bytes - 1) + (7 - t.bytes) ∧
        p.getLsbD (8 * (t.bytes - 1) + (i - 6 * (t.bytes - 1))) = true := by
  have h6 := t.bytes_le_six
  have h1 := Tier.bytes_ne_one ht
  rw [getLsbD_leadPayload t _ ht, getLsbD_byteLane, Tier.shift_eq]
  simp only [Bool.and_eq_true, decide_eq_true_eq]
  constructor
  · rintro ⟨-, hlo, hhi, -, hbit⟩
    exact ⟨hlo, by omega, hbit⟩
  · rintro ⟨hlo, hhi, hbit⟩
    exact ⟨by omega, hlo, by omega, by omega, hbit⟩

/-- Rule R75 bit by bit: which bit of P a bit of the decoded code point is, and that there is none above the lead
payload. -/
theorem getLsbD_decodedCp_iff {t : Tier} (ht : t ≠ .t1) (p : Packed) (i : Nat) :
    (decodedCp t p).getLsbD i = true ↔
      (6 * (t.bytes - 1) ≤ i ∧ i < 6 * (t.bytes - 1) + (7 - t.bytes) ∧
        p.getLsbD (8 * (t.bytes - 1) + (i - 6 * (t.bytes - 1))) = true) ∨
      (i < 6 * (t.bytes - 1) ∧ p.getLsbD (8 * (i / 6) + i % 6) = true) := by
  have h6 := t.bytes_le_six
  rw [getLsbD_decodedCp, Bool.or_eq_true, List.any_eq_true]
  refine or_congr (getLsbD_leadPayload_lane ht p i) ⟨?_, ?_⟩
  · rintro ⟨k, hk, hbit⟩
    have hk : k < t.bytes - 1 := List.mem_range.mp hk
    obtain ⟨hm, hbit⟩ := (getLsbD_contPayload_lane p (by omega) i).mp hbit
    exact ⟨by omega, by rwa [hm]⟩
  · rintro ⟨hi, hbit⟩
    refine ⟨t.bytes - 2 - i / 6, List.mem_range.mpr (by omega), ?_⟩
    rw [seqByte, show t.bytes - 1 - (t.bytes - 2 - i / 6 + 1) = i / 6 by omega]
    exact (getLsbD_contPayload_lane p (by omega) i).mpr ⟨rfl, hbit⟩

theorem getLsbD_decodedCp_slice {t : Tier} (ht : t ≠ .t1) (p : Packed) {m i : Nat} (hm : m < t.bytes - 1)
    (hi : i < 6) : (decodedCp t p).getLsbD (6 * m + i) = p.getLsbD (8 * m + i) := by
  rw [Bool.eq_iff_iff, getLsbD_decodedCp_iff ht, show (6 * m + i) / 6 = m by omega, show (6 * m + i) % 6 = i by omega]
  constructor
  · rintro (⟨hlo, -⟩ | ⟨-, hbit⟩)
    · omega
    · exact hbit
  · exact fun hbit => .inr ⟨by omega, hbit⟩

theorem getLsbD_decodedCp_lead {t : Tier} (ht : t ≠ .t1) (p : Packed) {i : Nat} (hi : i < 7 - t.bytes) :
    (decodedCp t p).getLsbD (6 * (t.bytes - 1) + i) = p.getLsbD (8 * (t.bytes - 1) + i) := by
  rw [Bool.eq_iff_iff, getLsbD_decodedCp_iff ht, Nat.add_sub_cancel_left]
  constructor
  · rintro (⟨-, -, hbit⟩ | ⟨hlo, -⟩)
    · exact hbit
    · omega
  · exact fun hbit => .inl ⟨by omega, by omega, hbit⟩

/-- A decoded code point has its tier's payload bits at most (rules R75, R149). -/
theorem toNat_decodedCp_lt {t : Tier} (ht : t ≠ .t1) (p : Packed) : (decodedCp t p).toNat < 2 ^ t.payloadBits := by
  rw [toNat_lt_two_pow_iff_getLsbD]
  intro i hi
  rw [← leadBits_add_shift ht, Tier.shift_eq] at hi
  rw [← Bool.not_eq_true, getLsbD_decodedCp_iff ht]
  omega

theorem le_cpMax_of_toNat_lt {t : Tier} {cp : CodePoint} (h : cp.toNat < 2 ^ t.payloadBits) : cp ≤ Config.cpMax := by
  have bits : t.payloadBits ≤ 31 := by cases t <;> decide
  exact BitVec.le_def.mpr (Nat.le_of_lt_succ (Nat.lt_of_lt_of_le h (Nat.pow_le_pow_right (by decide) bits)))

/-! ### What a success of the decoder says -/

/-- Selection is the range test and DECODE's strict test (rules R73, R140). -/
theorem decSelects_eq (strict : Bool) (t : Tier) (p : Packed) :
    decSelects strict t p = (decInRange t p && !(strict && badContinuation t p.toNat)) := by
  rw [decSelects, badContinuation_eq, Bool.not_and, Bool.not_not]

/-- DECODE succeeds with length n exactly when the build selects tier n, and delivers that tier's value (rule R140). -/
theorem channelDecode_eq_decOk_iff (strict : Bool) (t : Tier) (p : Packed) (cp : CodePoint) :
    channelDecode strict p = decOk t.bytes cp ↔
      decSelects strict t p = true ∧ cp = BitVec.ofNat 32 (decodeValue t p.toNat) := by
  rw [decSelects_eq, Bool.and_eq_true, Bool.not_eq_true']
  constructor
  · intro h
    by_cases hrange : ∃ u, decInRange u p = true
    · obtain ⟨u, hu⟩ := hrange
      rw [channelDecode_of_decInRange strict hu] at h
      split at h
      next => cases congrArg DecOutputs.status h
      next good =>
        have hlen := congrArg (fun o => o.len.toNat) h
        obtain ⟨-, -, hut⟩ := u.len_bounds
        obtain ⟨-, -, htt⟩ := t.len_bounds
        obtain rfl := Tier.bytes_injective (hut.symm.trans (hlen.trans htt))
        exact ⟨⟨hu, Bool.not_eq_true _ ▸ good⟩, (congrArg DecOutputs.cp h).symm⟩
    · rw [channelDecode_of_no_range strict (by simpa using hrange)] at h
      cases congrArg DecOutputs.status h
  · rintro ⟨⟨hrange, hgood⟩, rfl⟩
    rw [channelDecode_of_decInRange strict hrange, hgood, if_neg Bool.false_ne_true]

/-- A selected pattern is delivered (rules R140, R148). -/
theorem channelDecode_of_decSelects {strict : Bool} {t : Tier} {p : Packed} (h : decSelects strict t p = true) :
    channelDecode strict p = decOk t.bytes (BitVec.ofNat 32 (decodeValue t p.toNat)) :=
  (channelDecode_eq_decOk_iff strict t p _).mpr ⟨h, rfl⟩

theorem ofNat_decodeValue {t : Tier} (ht : t ≠ .t1) (p : Packed) :
    BitVec.ofNat 32 (decodeValue t p.toNat) = decodedCp t p := by
  rw [← toNat_decodedCp ht, BitVec.ofNat_toNat, BitVec.setWidth_eq]

/-- Tier 1's code point is the pattern (rules R75, R141). -/
theorem ofNat_decodeValue_t1 {p : Packed} (h : decInRange .t1 p = true) :
    BitVec.ofNat 32 (decodeValue .t1 p.toNat) = p.setWidth 32 := by
  have hp : p.toNat < 2 ^ 7 := (decInRange_t1_iff p).mp h
  apply BitVec.eq_of_toNat_eq
  simp only [decodeValue, Tier.bytes, BitVec.toNat_ofNat, BitVec.toNat_setWidth, if_true]
  omega

/-- A decoded code point has its tier's payload bits at most (rules R75, R149). -/
theorem toNat_decoded_lt {t : Tier} {p : Packed} (h : decInRange t p = true) :
    (BitVec.ofNat 32 (decodeValue t p.toNat)).toNat < 2 ^ t.payloadBits := by
  by_cases ht : t = .t1
  · subst ht
    rw [ofNat_decodeValue_t1 h, BitVec.toNat_setWidth]
    exact Nat.lt_of_le_of_lt (Nat.mod_le _ _) ((decInRange_t1_iff p).mp h)
  · rw [ofNat_decodeValue ht]
    exact toNat_decodedCp_lt ht p

/-- 0xC080 decodes to 0 in both builds (rule R149). -/
theorem channelDecode_0xC080 (strict : Bool) : channelDecode strict 0xC080#48 = ⟨0#2, 2#3, 0#32⟩ := by
  cases strict <;> decide

/-- Settles O35: a selected pattern delivers DECODE's value (`channelDecode_of_decSelects`), whose bits are those of the
payloads and no others (`getLsbD_decodedCp_iff`). -/
theorem decodedBitsComeFromTheirPayloads : Obligations.DecodedBitsComeFromTheirPayloads := by
  unfold Obligations.DecodedBitsComeFromTheirPayloads
  refine ⟨fun t p s h => ?bits, fun s => ⟨?overlong, by decide⟩⟩
  case overlong => rw [observeDec_eq, channelDecode_0xC080]
  case bits =>
    have hrange := decInRange_of_decSelects h
    have delivered := exec_decCase_eq_channelDecode hrange s
    rw [channelDecode_of_decSelects h] at delivered
    have bound := toNat_decoded_lt hrange
    refine ⟨_, delivered, fun ht => ?tier1, fun ht => ?payloads, bound, le_cpMax_of_toNat_lt bound⟩
    case tier1 =>
      subst ht
      exact ofNat_decodeValue_t1 hrange
    case payloads =>
      rw [ofNat_decodeValue ht]
      exact ⟨fun m i => getLsbD_decodedCp_slice ht p, fun i => getLsbD_decodedCp_lead ht p⟩

/-! ### Patterns that decode without being an encoding -/

/-- Two values of n bytes are equal when their bytes are. -/
theorem eq_of_seqByte {n : Nat} {p q : Packed} (h6 : n ≤ 6) (hp : p.toNat < 2 ^ (8 * n)) (hq : q.toNat < 2 ^ (8 * n))
    (h : ∀ k < n, seqByte n p k = seqByte n q k) : p = q := by
  have bytes : laneBytes n p = laneBytes n q := List.map_congr_left fun k hk => h k (List.mem_range.mp hk)
  rw [← packBytes_laneBytes h6 hp, bytes, packBytes_laneBytes h6 hq]

/-- Encoding the decoded code point gives a well-formed continuation byte back (rules R74, R75). -/
theorem contByte_decodedCp {t : Tier} (ht : t ≠ .t1) {p : Packed} {m : Nat} (hm : m < t.bytes - 1)
    (hcont : isContinuation (byteLane p m) = true) : contByte (decodedCp t p) (6 * m) = byteLane p m := by
  have slice : (decodedCp t p).extractLsb' (6 * m) 6 = p.extractLsb' (8 * m) 6 := by
    ext i hi
    simpa using getLsbD_decodedCp_slice ht p hm hi
  have slice := congrArg BitVec.toNat slice
  rw [isContinuation_iff] at hcont
  simp only [BitVec.extractLsb'_toNat, Nat.shiftRight_eq_div_pow] at slice
  apply BitVec.eq_of_toNat_eq
  rw [toNat_contByte]
  rw [toNat_byteLane] at hcont ⊢
  omega

/-- A leading byte of a tier's range is its tag and 7-n payload bits (rules R71, R75). -/
theorem lead_eq_tag_add_payload {t : Tier} (ht : t ≠ .t1) {b : Byte} (hlo : t.tag ≤ b) (hhi : b ≤ t.leadMax) :
    b.toNat = t.tag.toNat + b.toNat % 2 ^ (7 - t.bytes) := by
  rw [BitVec.le_def] at hlo hhi
  cases t with
  | t1 => exact absurd rfl ht
  | _ => simp [Tier.tag, Tier.leadMax, Tier.lmask, Tier.bytes] at *; omega

/-- Encoding the decoded code point gives the leading byte back (rules R74, R75). -/
theorem leadByte_decodedCp {t : Tier} (ht : t ≠ .t1) {p : Packed} (h : decInRange t p = true)
    (hcp : encInRange t (decodedCp t p) = true) : leadByte t (decodedCp t p) = seqByte t.bytes p 0 := by
  have slice : (decodedCp t p).extractLsb' (6 * (t.bytes - 1)) (7 - t.bytes) =
      p.extractLsb' (8 * (t.bytes - 1)) (7 - t.bytes) := by
    ext i hi
    simpa using getLsbD_decodedCp_lead ht p hi
  have payload := congrArg BitVec.toNat slice
  have field := toNat_leadField_lt ht hcp
  rw [BitVec.toNat_ushiftRight, Tier.shift_eq] at field
  rw [BitVec.extractLsb'_toNat, BitVec.extractLsb'_toNat, Nat.mod_eq_of_lt field, Nat.shiftRight_eq_div_pow,
    Nat.shiftRight_eq_div_pow, ← toNat_seqByte_zero t.bytes_ne_zero (toNat_lt_of_decInRange h)] at payload
  obtain ⟨hlo, hhi⟩ := leadByte_bounds_of_decInRange h
  apply BitVec.eq_of_toNat_eq
  rw [lead_eq_tag_add_payload ht hlo hhi, toNat_leadByte t _ ht hcp, Tier.shift_eq, payload]

/-- Rule R79: an accepted pattern with good continuation bytes whose code point is no overlong form is the encoding of
that code point. -/
theorem channelEncode_decoded {t : Tier} {p : Packed} (h : decInRange t p = true)
    (hcont : (contBytes t p).all isContinuation = true)
    (hlo : t.encLo ≤ BitVec.ofNat 32 (decodeValue t p.toNat)) :
    channelEncode (BitVec.ofNat 32 (decodeValue t p.toNat)) = encOk t.bytes p := by
  have hcp : encInRange t (BitVec.ofNat 32 (decodeValue t p.toNat)) = true := by
    have hlt := toNat_decoded_lt h
    rw [← Tier.encHi_add_one] at hlt
    exact (encInRange_iff t _).mpr ⟨hlo, Nat.le_of_lt_succ hlt⟩
  rw [channelEncode_of_encInRange hcp]
  by_cases ht : t = .t1
  · subst ht
    have hp : p.toNat < 2 ^ 7 := (decInRange_t1_iff p).mp h
    have data : ((BitVec.ofNat 32 (decodeValue .t1 p.toNat)).extractLsb' 0 7).setWidth 48 = p := by
      apply BitVec.eq_of_toNat_eq
      rw [toNat_encT1_data hcp, ofNat_decodeValue_t1 h, BitVec.toNat_setWidth]
      omega
    rw [← encT1_data_eq hcp, data]
  · rw [ofNat_decodeValue ht] at hcp ⊢
    refine congrArg (encOk t.bytes) (eq_of_seqByte t.bytes_le_six (toNat_encodeSum_lt t _) (toNat_lt_of_decInRange h)
      fun k hk => ?_)
    rw [← packBytes_encodedBytes ht, seqByte_packBytes_encodedBytes t _ hk]
    split
    next zero => rw [zero, leadByte_decodedCp ht h hcp]
    next nonzero =>
      have lane : t.bytes - 1 - k < t.bytes - 1 := by omega
      have good := (all_isContinuation_iff_lanes t p).mp hcont _ lane
      exact contByte_decodedCp ht lane ((isContinuation_iff_and _).mpr good)

/-- 0xC100 decodes to 0x40 in the permissive build (rule R79). -/
theorem channelDecode_0xC100 : channelDecode false 0xC100#48 = ⟨0#2, 2#3, 0x40#32⟩ := by decide

/-- Settles O39: a success is a selected pattern with its tier's value (`channelDecode_eq_decOk_iff`), and one that is
neither overlong nor has a bad continuation byte encodes back to itself (`channelEncode_decoded`). -/
theorem acceptedNonCanonicalPatternsAreOfTwoKinds : Obligations.AcceptedNonCanonicalPatternsAreOfTwoKinds := by
  unfold Obligations.AcceptedNonCanonicalPatternsAreOfTwoKinds
  refine ⟨fun t p s h => ?accepted, decSelects_false, fun p s t cp hdec hne => ?kinds, fun s => ?overlong,
    fun s hs => ?badCont⟩
  case accepted => exact ⟨_, (observeDec_eq p s).trans (congrArg some (channelDecode_of_decSelects h))⟩
  case overlong => rw [observeDec_eq, channelDecode_0xC080]
  case badCont => rw [observeDec_eq, hs, channelDecode_0xC100]
  case kinds =>
    rw [observeDec_eq] at hdec
    obtain ⟨hsel, rfl⟩ := (channelDecode_eq_decOk_iff _ t p cp).mp (Option.some.inj hdec)
    by_contra neither
    obtain ⟨notOverlong, good⟩ := not_or.mp neither
    have hcont : (contBytes t p).all isContinuation = true := by
      cases hb : s.build.decStrictCont with
      | true =>
        rw [hb, decSelects_true, Bool.and_eq_true] at hsel
        exact hsel.2
      | false =>
        rw [all_isContinuation_iff]
        intro k h1 hk
        by_contra hbad
        exact good ⟨hb, k, h1, hk, hbad⟩
    have encoded := channelEncode_decoded (decInRange_of_decSelects hsel) hcont (BitVec.not_lt.mp notOverlong)
    rw [observeEnc_eq, encoded] at hne
    exact hne rfl

end Sys2Proof.Machine
end

section
/-!
PROOFS. The encoder channel case by case (rules R101 to R107, R113): each case is selected by its range, by its slices
and by its mask in priority order, and packs its tag bits and slices as bytes side by side; and the channel as a whole
computes ENCODE (R100), for every code point in range (R111), whatever came before (R112, R152).
-/
namespace Sys2Proof

open Machine

/-! ### The three ways to say which ENC case is selected -/

/-- A tier's ENC case is selected exactly by the code points of its range (rule R66). -/
theorem selectEnc_eq_encCase_iff (t : Tier) (cp : CodePoint) :
    selectEnc cp = t.encCase cp ↔ encInRange t cp = true := by
  refine ⟨fun h => ?_, selectEnc_of_encInRange⟩
  obtain ⟨hwf, -⟩ := selectEnc_wf_and_word false cp
  rwa [h, wf_encCase] at hwf

theorem selectEnc_eq_encCase_iff_le (t : Tier) (cp : CodePoint) :
    selectEnc cp = t.encCase cp ↔ t.encLo ≤ cp ∧ cp ≤ t.encHi :=
  (selectEnc_eq_encCase_iff t cp).trans (encInRange_iff t cp)

/-- A tier's range ends where its payload bits do (rules R65, R68). -/
theorem encInRange_iff_lt (t : Tier) (cp : CodePoint) :
    encInRange t cp = true ↔ t.encLo.toNat ≤ cp.toNat ∧ cp.toNat < 2 ^ t.payloadBits := by
  rw [encInRange_iff, ← Tier.encHi_add_one, Nat.lt_succ_iff]

/-- Tier 1 is selected exactly below 2^7: its range starts at 0 (rules R66, R68). -/
theorem selectEnc_eq_encT1_iff_lt (cp : CodePoint) : selectEnc cp = .encT1 cp ↔ cp.toNat < 2 ^ 7 :=
  ((selectEnc_eq_encCase_iff .t1 cp).trans (encInRange_iff_lt .t1 cp)).trans (and_iff_right (Nat.zero_le _))

/-- With nothing above it, the slice of n bits from k up is 0 exactly when the word is below 2^k. -/
theorem extractLsb'_eq_zero_iff_of_lt {w k n : Nat} {x : BitVec w} (hx : x.toNat < 2 ^ (k + n)) :
    x.extractLsb' k n = 0#n ↔ x.toNat < 2 ^ k := by
  have slice : x.toNat / 2 ^ k < 2 ^ n := Nat.div_lt_of_lt_mul (Nat.pow_add 2 k n ▸ hx)
  rw [← BitVec.toNat_inj, BitVec.extractLsb'_toNat, Nat.shiftRight_eq_div_pow, Nat.mod_eq_of_lt slice,
    BitVec.toNat_zero, Nat.div_eq_zero_iff]
  exact or_iff_right (Nat.two_pow_pos k).ne'

/-- A tier whose range is [2^k, 2^(k+n)) is selected when nothing stands above its payload and one of the n bits from k
up is set (rules R67, R68). -/
theorem selectEnc_eq_encCase_iff_slice (t : Tier) (k n : Nat) (hlo : t.encLo.toNat = 2 ^ k)
    (hhi : t.payloadBits = k + n) (cp : CodePoint) :
    selectEnc cp = t.encCase cp ↔ cp.toNat < 2 ^ (k + n) ∧ cp.extractLsb' k n ≠ 0#n := by
  rw [selectEnc_eq_encCase_iff, encInRange_iff_lt, hlo, hhi, and_comm]
  refine and_congr_right fun hx => ?_
  rw [ne_eq, extractLsb'_eq_zero_iff_of_lt hx, Nat.not_lt]

theorem and_encMask_eq_zero_iff (t : Tier) (cp : CodePoint) :
    cp &&& t.encMask = 0#32 ↔ cp.toNat < 2 ^ t.payloadBits := by
  have mask : t.encMask = BitVec.allOnes 32 <<< t.payloadBits := by cases t <;> rfl
  rw [mask]
  exact and_highMask_eq_zero_iff cp t.payloadBits

/-- A code point up to a tier's end lies in that tier's range or in an earlier one: the ranges are contiguous
(rule R66). -/
theorem exists_encInRange_le {t : Tier} {cp : CodePoint} (h : cp.toNat < 2 ^ t.payloadBits) :
    ∃ u, encInRange u cp = true ∧ u.bytes ≤ t.bytes := by
  have bits : t.payloadBits ≤ 31 := by cases t <;> decide
  have legal : cp ≤ Config.cpMax :=
    Nat.le_of_lt_succ (Nat.lt_of_lt_of_le h (Nat.pow_le_pow_right (by decide) bits))
  obtain ⟨u, hu⟩ := (exists_encInRange_iff cp).mpr legal
  refine ⟨u, hu, Nat.not_lt.mp fun later => ?_⟩
  have below := Tier.encHi_lt_encLo later
  rw [Nat.lt_iff_add_one_le, Tier.encHi_add_one] at below
  rw [encInRange_iff_lt] at hu
  omega

/-- Rule R67: a tier is selected when no earlier one is and its mask test holds. -/
theorem selectEnc_eq_encCase_iff_priority (t : Tier) (cp : CodePoint) :
    selectEnc cp = t.encCase cp ↔
      (∀ u : Tier, u.bytes < t.bytes → selectEnc cp ≠ u.encCase cp) ∧ cp &&& t.encMask = 0#32 := by
  simp only [ne_eq, selectEnc_eq_encCase_iff, and_encMask_eq_zero_iff]
  constructor
  · intro h
    refine ⟨fun u earlier hu => ?_, ((encInRange_iff_lt t cp).mp h).2⟩
    obtain rfl := encInRange_unique h hu
    exact Nat.lt_irrefl _ earlier
  · rintro ⟨first, fits⟩
    obtain ⟨u, hu, hle⟩ := exists_encInRange_le fits
    obtain hlt | heq := Nat.lt_or_eq_of_le hle
    · exact absurd hu (first u hlt)
    · exact Tier.bytes_injective heq ▸ hu

end Sys2Proof

namespace Sys2Proof.Machine

open Sys2Proof

/-! ### Bytes side by side -/

/-- Bits side by side are the OR of the two fields at their places. -/
theorem append_eq_or {m k : Nat} (high : BitVec m) (low : BitVec k) :
    high ++ low = low.setWidth (m + k) ||| high.setWidth (m + k) <<< k := by
  apply BitVec.eq_of_getLsbD_eq
  intro i hi
  simp only [BitVec.getLsbD_append, BitVec.getLsbD_or, BitVec.getLsbD_setWidth, BitVec.getLsbD_shiftLeft]
  by_cases h : i < k
  · simp [h, hi]
  · rw [BitVec.getLsbD_of_ge low i (by omega)]
    simp [h, hi, show i - k < m + k by omega]

theorem contByte_eq_append (cp : CodePoint) (lo : Nat) : contByte cp lo = 0b10#2 ++ cp.extractLsb' lo 6 :=
  (contByte_eq cp lo).trans (append_eq_or 0b10#2 (cp.extractLsb' lo 6)).symm

theorem packBytes_singleton (b : Byte) : packBytes [b] = b.setWidth 48 := by simp [packBytes]

/-- Packing one more byte puts it beside the bytes packed so far (rule R43). -/
theorem packBytes_snoc {n : Nat} {bs : List Byte} {x : BitVec n} (h : packBytes bs = x.setWidth 48) (b : Byte) :
    packBytes (bs ++ [b]) = (x ++ b).setWidth 48 := by
  have step : packBytes (bs ++ [b]) = packBytes bs <<< 8 ||| b.setWidth 48 := by simp [packBytes]
  rw [step, h]
  apply BitVec.eq_of_getLsbD_eq
  intro i hi
  simp only [BitVec.getLsbD_append, BitVec.getLsbD_or, BitVec.getLsbD_setWidth, BitVec.getLsbD_shiftLeft, hi]
  by_cases h8 : i < 8
  · simp [h8]
  · rw [BitVec.getLsbD_of_ge b i (by omega)]
    simp [h8, show i - 8 < 48 by omega]

theorem packBytes_two (a b : Byte) : packBytes [a, b] = (a ++ b).setWidth 48 :=
  packBytes_snoc (packBytes_singleton a) b

theorem packBytes_three (a b c : Byte) : packBytes [a, b, c] = (a ++ b ++ c).setWidth 48 :=
  packBytes_snoc (packBytes_two a b) c

theorem packBytes_four (a b c d : Byte) : packBytes [a, b, c, d] = (a ++ b ++ c ++ d).setWidth 48 :=
  packBytes_snoc (packBytes_three a b c) d

theorem packBytes_five (a b c d e : Byte) : packBytes [a, b, c, d, e] = (a ++ b ++ c ++ d ++ e).setWidth 48 :=
  packBytes_snoc (packBytes_four a b c d) e

/-- Six bytes fill the 48 bits (rule R106). -/
theorem packBytes_six (a b c d e f : Byte) : packBytes [a, b, c, d, e, f] = a ++ b ++ c ++ d ++ e ++ f :=
  (packBytes_snoc (packBytes_five a b c d e) f).trans (BitVec.setWidth_eq _)

/-! ### The encoder channel: each case -/

/-- The leading byte of a two-byte encoding is 0xC2 to 0xDF, because the code point is 0x80 to 0x7FF (rule R102). -/
theorem leadByte_t2_bounds {cp : CodePoint} (h : encInRange .t2 cp = true) :
    0xC2#8 ≤ leadByte .t2 cp ∧ leadByte .t2 cp ≤ 0xDF#8 := by
  obtain ⟨lo, hi⟩ : 0x80 ≤ cp.toNat ∧ cp.toNat ≤ 0x7FF := (encInRange_iff .t2 cp).mp h
  have value : (leadByte .t2 cp).toNat = 0xC0 + cp.toNat / 2 ^ 6 := toNat_leadByte .t2 cp (by decide) h
  simp only [BitVec.le_def, value, BitVec.toNat_ofNat]
  omega

/-- Under a leading byte of 0xE0 the next byte is 0xA0 at least, because the code point is 0x800 at least
(rule R103). -/
theorem le_contByte_of_leadByte_t3 {cp : CodePoint} (h : encInRange .t3 cp = true) (first : leadByte .t3 cp = 0xE0#8) :
    0xA0#8 ≤ contByte cp 6 := by
  have lo : 0x800 ≤ cp.toNat := ((encInRange_iff .t3 cp).mp h).1
  have value : (leadByte .t3 cp).toNat = 0xE0 + cp.toNat / 2 ^ 12 := toNat_leadByte .t3 cp (by decide) h
  rw [first, BitVec.toNat_ofNat] at value
  rw [BitVec.le_def, toNat_contByte, BitVec.toNat_ofNat]
  omega

/-- The leading byte of a six-byte encoding is 0xFC or 0xFD, because it carries the one bit cp[30] (rule R106). -/
theorem leadByte_t6_cases {cp : CodePoint} (h : encInRange .t6 cp = true) :
    leadByte .t6 cp = 0xFC#8 ∨ leadByte .t6 cp = 0xFD#8 := by
  have hi : cp.toNat ≤ 0x7FFFFFFF := ((encInRange_iff .t6 cp).mp h).2
  have value : (leadByte .t6 cp).toNat = 0xFC + cp.toNat / 2 ^ 30 := toNat_leadByte .t6 cp (by decide) h
  simp only [← BitVec.toNat_inj, value, BitVec.toNat_ofNat]
  omega

/-- A case of a tier n ≥ 2 delivers what its bytes pack to (rules R102 to R106). -/
theorem exec_encCase_of_packBytes {t : Tier} (ht : t ≠ .t1) {cp : CodePoint} (s : State) {out : Packed}
    (h : packBytes (encodedBytes t cp) = out) : exec (t.encCase cp) s = .next (s.setEnc (encOk t.bytes out)) :=
  h ▸ exec_encCase ht cp s

/-- Settles O14: tier 1's range, high slice and mask all say that cp is below 2^7 (`selectEnc_eq_encT1_iff_lt`), and its
case delivers the seven low bits. -/
theorem encTier1IsTheValueItself : Obligations.EncTier1IsTheValueItself := by
  unfold Obligations.EncTier1IsTheValueItself
  refine ⟨fun cp => ⟨selectEnc_eq_encCase_iff_le .t1 cp, ?slice, ?mask⟩, exec_encT1, fun s => ?samples⟩
  case slice => rw [selectEnc_eq_encT1_iff_lt, extractLsb'_eq_zero_iff (k := 7) cp (by decide)]
  case mask => exact (selectEnc_eq_encT1_iff_lt cp).trans (and_encMask_eq_zero_iff .t1 cp).symm
  case samples => simp only [observeEnc_eq]; decide

/-- Settles O15: the three selection forms are those of every tier; inside the range the case packs its tag beside its
lead field and each slice beside `10` (`leadByte_eq`, `contByte_eq_append`, `packBytes_two`), within the bounds of
`leadByte_t2_bounds`. -/
theorem encTier2PacksTwoBytes : Obligations.EncTier2PacksTwoBytes := by
  unfold Obligations.EncTier2PacksTwoBytes
  refine ⟨fun cp => ⟨selectEnc_eq_encCase_iff_le .t2 cp, ?slice, ?mask⟩, fun cp s hlo hhi => ?bytes,
    fun s => ?samples⟩
  case slice =>
    rw [extractLsb'_eq_zero_iff (k := 11) cp (by decide)]
    exact selectEnc_eq_encCase_iff_slice .t2 7 4 rfl rfl cp
  case mask =>
    simpa [Tier.forall_iff, Tier.bytes, Tier.encCase, Tier.encMask, and_assoc] using
      selectEnc_eq_encCase_iff_priority .t2 cp
  case bytes =>
    have h : encInRange .t2 cp = true := (encInRange_iff .t2 cp).mpr ⟨hlo, hhi⟩
    have lead : 0b110#3 ++ cp.extractLsb' 6 5 = leadByte .t2 cp :=
      (append_eq_or _ _).trans (leadByte_eq (by decide) h).symm
    simp only [lead, ← contByte_eq_append]
    exact ⟨exec_encCase_of_packBytes (t := .t2) (by decide) s (packBytes_two _ _), leadByte_t2_bounds h⟩
  case samples => simp only [observeEnc_eq]; decide

/-- Settles O16, as O15 with three bytes (`packBytes_three`); the corner under 0xE0 is `le_contByte_of_leadByte_t3`. -/
theorem encTier3PacksThreeBytes : Obligations.EncTier3PacksThreeBytes := by
  unfold Obligations.EncTier3PacksThreeBytes
  refine ⟨fun cp => ⟨selectEnc_eq_encCase_iff_le .t3 cp, ?slice, ?mask⟩, fun cp s hlo hhi => ?bytes,
    fun s => ?samples⟩
  case slice =>
    rw [extractLsb'_eq_zero_iff (k := 16) cp (by decide)]
    exact selectEnc_eq_encCase_iff_slice .t3 11 5 rfl rfl cp
  case mask =>
    simpa [Tier.forall_iff, Tier.bytes, Tier.encCase, Tier.encMask, and_assoc] using
      selectEnc_eq_encCase_iff_priority .t3 cp
  case bytes =>
    have h : encInRange .t3 cp = true := (encInRange_iff .t3 cp).mpr ⟨hlo, hhi⟩
    have lead : 0b1110#4 ++ cp.extractLsb' 12 4 = leadByte .t3 cp :=
      (append_eq_or _ _).trans (leadByte_eq (by decide) h).symm
    simp only [lead, ← contByte_eq_append]
    exact ⟨exec_encCase_of_packBytes (t := .t3) (by decide) s (packBytes_three _ _ _), le_contByte_of_leadByte_t3 h⟩
  case samples => simp only [observeEnc_eq]; decide

/-- Settles O17, as O15 with four bytes (`packBytes_four`). -/
theorem encTier4PacksFourBytes : Obligations.EncTier4PacksFourBytes := by
  unfold Obligations.EncTier4PacksFourBytes
  refine ⟨fun cp => ⟨selectEnc_eq_encCase_iff_le .t4 cp, ?slice, ?mask⟩, fun cp s hlo hhi => ?bytes,
    fun s => ?samples⟩
  case slice =>
    rw [extractLsb'_eq_zero_iff (k := 21) cp (by decide)]
    exact selectEnc_eq_encCase_iff_slice .t4 16 5 rfl rfl cp
  case mask =>
    simpa [Tier.forall_iff, Tier.bytes, Tier.encCase, Tier.encMask, and_assoc] using
      selectEnc_eq_encCase_iff_priority .t4 cp
  case bytes =>
    have h : encInRange .t4 cp = true := (encInRange_iff .t4 cp).mpr ⟨hlo, hhi⟩
    have lead : 0b11110#5 ++ cp.extractLsb' 18 3 = leadByte .t4 cp :=
      (append_eq_or _ _).trans (leadByte_eq (by decide) h).symm
    simp only [lead, ← contByte_eq_append]
    exact exec_encCase_of_packBytes (t := .t4) (by decide) s (packBytes_four _ _ _ _)
  case samples => simp only [observeEnc_eq]; decide

/-- Settles O18, as O15 with five bytes (`packBytes_five`); 40 bits lose nothing in 48. -/
theorem encTier5PacksFiveBytes : Obligations.EncTier5PacksFiveBytes := by
  unfold Obligations.EncTier5PacksFiveBytes
  refine ⟨fun cp => ⟨selectEnc_eq_encCase_iff_le .t5 cp, ?slice, ?mask⟩, fun cp s hlo hhi => ?bytes,
    fun s => ?samples⟩
  case slice =>
    rw [extractLsb'_eq_zero_iff (k := 26) cp (by decide)]
    exact selectEnc_eq_encCase_iff_slice .t5 21 5 rfl rfl cp
  case mask =>
    simpa [Tier.forall_iff, Tier.bytes, Tier.encCase, Tier.encMask, and_assoc] using
      selectEnc_eq_encCase_iff_priority .t5 cp
  case bytes =>
    have h : encInRange .t5 cp = true := (encInRange_iff .t5 cp).mpr ⟨hlo, hhi⟩
    have lead : 0b111110#6 ++ cp.extractLsb' 24 2 = leadByte .t5 cp :=
      (append_eq_or _ _).trans (leadByte_eq (by decide) h).symm
    simp only [lead, ← contByte_eq_append]
    exact exec_encCase_of_packBytes (t := .t5) (by decide) s (packBytes_five _ _ _ _ _)
  case samples => simp only [observeEnc_eq]; decide

/-- Settles O19, as O15 with six bytes, which fill the 48 bits (`packBytes_six`); bit 31 alone stands above the payload,
and the leading byte is one of two (`leadByte_t6_cases`). -/
theorem encTier6PacksSixBytes : Obligations.EncTier6PacksSixBytes := by
  unfold Obligations.EncTier6PacksSixBytes
  refine ⟨fun cp => ⟨selectEnc_eq_encCase_iff_le .t6 cp, ?slice, ?mask⟩, fun cp s hlo hhi => ?bytes,
    fun s => ?samples⟩
  case slice =>
    rw [getLsbD_31_eq_false_iff]
    exact selectEnc_eq_encCase_iff_slice .t6 26 5 rfl rfl cp
  case mask =>
    simpa [Tier.forall_iff, Tier.bytes, Tier.encCase, Tier.encMask, and_assoc] using
      selectEnc_eq_encCase_iff_priority .t6 cp
  case bytes =>
    have h : encInRange .t6 cp = true := (encInRange_iff .t6 cp).mpr ⟨hlo, hhi⟩
    have lead : 0b1111110#7 ++ cp.extractLsb' 30 1 = leadByte .t6 cp :=
      (append_eq_or _ _).trans (leadByte_eq (by decide) h).symm
    simp only [lead, ← contByte_eq_append]
    exact ⟨exec_encCase_of_packBytes (t := .t6) (by decide) s (packBytes_six _ _ _ _ _ _), leadByte_t6_cases h⟩
  case samples => simp only [observeEnc_eq]; decide

/-- Settles O20: bit 31, the comparison and the mask all say that cp is above `CP_MAX`, which alone selects ENC.ERR
(`selectEnc_eq_encErr_iff`). -/
theorem encErrorIsInvalidCodepoint : Obligations.EncErrorIsInvalidCodepoint := by
  unfold Obligations.EncErrorIsInvalidCodepoint
  refine ⟨fun cp => ⟨?bit, ?range, ?mask⟩, exec_encErr, fun s => ?samples⟩
  case bit => rw [selectEnc_eq_encErr_iff, getLsbD_31_eq_true_iff]
  case range =>
    have hcp := cp.isLt
    rw [selectEnc_eq_encErr_iff, BitVec.lt_def, BitVec.le_def, BitVec.le_def]
    simp only [BitVec.toNat_ofNat]
    omega
  case mask =>
    obtain ⟨-, hmask, -⟩ := encoderPriorityMasksSelectTheSame cp
    exact hmask
  case samples => simp only [observeEnc_eq]; decide

/-! ### The encoder channel: the whole -/

/-- Settles O21: the refinement of ENCODE by the selected case (`exec_selectEnc`). -/
theorem encoderCasesComputeEncode : Obligations.EncoderCasesComputeEncode := by
  unfold Obligations.EncoderCasesComputeEncode
  exact exec_selectEnc

/-- In a tier's range ENCODE succeeds with that tier's length (rules R63, R100). -/
theorem channelEncode_ok {t : Tier} {cp : CodePoint} (h : encInRange t cp = true) :
    (channelEncode cp).status = 0#2 ∧ (channelEncode cp).len = BitVec.ofNat 3 t.bytes := by
  rw [channelEncode_of_encInRange h]
  exact ⟨rfl, rfl⟩

/-- Settles O25: the ranges leave no gap (`exists_encInRange_iff`), and ENCODE succeeds in each (`channelEncode_ok`). -/
theorem encoderExcludesNoCodePointInRange : Obligations.EncoderExcludesNoCodePointInRange := by
  unfold Obligations.EncoderExcludesNoCodePointInRange
  intro cp s legal
  obtain ⟨t, ht⟩ := (exists_encInRange_iff cp).mpr legal
  obtain ⟨hstatus, hlen⟩ := channelEncode_ok ht
  obtain ⟨-, -, hbytes⟩ := t.len_bounds
  exact ⟨_, t, observeEnc_eq cp s, hstatus, ht, hlen ▸ hbytes, by rw [selectEnc_of_encInRange ht]⟩

/-- Settles O47: what is observed is a function of the input (`observeEnc_eq`), and on the decoder of the build as well
(`observeDec_eq`). -/
theorem evaluationsForgetThePast : Obligations.EvaluationsForgetThePast := by
  unfold Obligations.EvaluationsForgetThePast
  refine ⟨fun cp s u => ?enc, fun p s u hbuild => ?dec⟩
  case enc => rw [observeEnc_eq, observeEnc_eq]
  case dec => rw [observeDec_eq, observeDec_eq, hbuild]

/-- Settles O26: each boundary value lies in its tier's range and its successor in the next tier's, whose lengths ENCODE
gives (`channelEncode_ok`). -/
theorem encoderTierBoundariesAreExact : Obligations.EncoderTierBoundariesAreExact := by
  unfold Obligations.EncoderTierBoundariesAreExact
  intro s
  have length {t : Tier} {cp : CodePoint} (h : encInRange t cp = true) :
      (observeEnc cp s).map (·.len) = some (BitVec.ofNat 3 t.bytes) :=
    (observeEnc_eq cp s).symm ▸ congrArg some (channelEncode_ok h).2
  simp only [List.forall_mem_cons, List.not_mem_nil, false_implies, implies_true, and_true]
  exact ⟨⟨length (t := .t1) (by decide), length (t := .t2) (by decide)⟩,
    ⟨length (t := .t2) (by decide), length (t := .t3) (by decide)⟩,
    ⟨length (t := .t3) (by decide), length (t := .t4) (by decide)⟩,
    ⟨length (t := .t4) (by decide), length (t := .t5) (by decide)⟩,
    ⟨length (t := .t5) (by decide), length (t := .t6) (by decide)⟩⟩

end Sys2Proof.Machine
end

section
/-!
PROOFS. What a successful encode looks like from the decoder's side: it lies in its own tier's decoder range with
continuation bytes throughout (rule R109), its payload is the code point, and so it is the shortest form (rule R110).
-/
namespace Sys2Proof.Machine

open Sys2Proof

/-! ### An encoding lies in its tier's decoder range -/

/-- Tier 1's encoding is the code point (rules R100, R101). -/
theorem toNat_encodeSum_t1 {cp : CodePoint} (h : encInRange .t1 cp = true) :
    (BitVec.ofNat 48 (encodeSum .t1 cp.toNat)).toNat = cp.toNat := by
  rw [← encT1_data_eq h, toNat_encT1_data h]

/-- Byte k of an encoding: the leading byte, then the continuation bytes (rule R74). -/
theorem seqByte_encodeSum {t : Tier} (ht : t ≠ .t1) (cp : CodePoint) {k : Nat} (hk : k < t.bytes) :
    seqByte t.bytes (BitVec.ofNat 48 (encodeSum t cp.toNat)) k =
      if k = 0 then leadByte t cp else contByte cp (6 * (t.bytes - 1 - k)) := by
  rw [← packBytes_encodedBytes ht, seqByte_packBytes_encodedBytes t cp hk]

/-- What stands above an encoding's trailing bytes is its leading byte: the tag plus the lead field (rule R74). -/
theorem encodeSum_div_eq_lead {t : Tier} (ht : t ≠ .t1) {cp : CodePoint} (h : encInRange t cp = true) :
    (BitVec.ofNat 48 (encodeSum t cp.toNat)).toNat / 2 ^ (8 * (t.bytes - 1)) =
      t.tag.toNat + (cp >>> t.shift).toNat := by
  rw [← toNat_seqByte_zero t.bytes_ne_zero (toNat_encodeSum_lt t cp),
    seqByte_encodeSum ht cp (Nat.pos_of_ne_zero t.bytes_ne_zero), if_pos rfl, toNat_leadByte t cp ht h,
    BitVec.toNat_ushiftRight, Nat.shiftRight_eq_div_pow]

/-- The lead field never carries into the tag (rules R71, R108). -/
theorem tagMatches_encodeSum {t : Tier} (ht : t ≠ .t1) {cp : CodePoint} (h : encInRange t cp = true) :
    BitVec.ofNat 48 (encodeSum t cp.toNat) &&& t.tagMask = t.tagMatch := by
  have block : t.tagMatch.toNat = t.tag.toNat * 2 ^ (8 * (t.bytes - 1)) ∧
      t.tagMatch.toNat + 2 ^ t.freeBits = (t.tag.toNat + 2 ^ (7 - t.bytes)) * 2 ^ (8 * (t.bytes - 1)) := by
    cases t with
    | t1 => exact absurd rfl ht
    | _ => decide
  obtain ⟨start, stop⟩ := block
  have lead := encodeSum_div_eq_lead ht h
  have field := toNat_leadField_lt ht h
  rw [tagMatches_iff, stop, start, ← Nat.le_div_iff_mul_le (Nat.two_pow_pos _),
    ← Nat.div_lt_iff_lt_mul (Nat.two_pow_pos _), lead]
  omega

/-- Every byte of an encoding after the first is a continuation byte (rules R64, R109). -/
theorem all_isContinuation_encodeSum (t : Tier) (cp : CodePoint) :
    (contBytes t (BitVec.ofNat 48 (encodeSum t cp.toNat))).all isContinuation = true := by
  by_cases ht : t = .t1
  · subst ht; rfl
  · rw [contBytes_eq, List.all_map, List.all_eq_true]
    intro k hk
    have hk : k + 1 < t.bytes := by
      have := List.mem_range.mp hk
      omega
    rw [Function.comp_apply, seqByte_encodeSum ht cp hk, if_neg k.succ_ne_zero]
    exact isContinuation_contByte cp _

/-- Both builds of the decoder select an encoding by the tier that made it (rules R73, R109). -/
theorem decSelects_encodeSum {t : Tier} {cp : CodePoint} (h : encInRange t cp = true) (strict : Bool) :
    decSelects strict t (BitVec.ofNat 48 (encodeSum t cp.toNat)) = true := by
  have strictly : decSelects true t (BitVec.ofNat 48 (encodeSum t cp.toNat)) = true := by
    by_cases ht : t = .t1
    · subst ht
      rw [decSelects_true, all_isContinuation_encodeSum, Bool.and_true, decInRange_t1_iff, toNat_encodeSum_t1 h]
      exact toNat_lt_payloadBits h
    · rw [decSelects_true_iff_and, strictMatches_iff]
      exact ⟨tagMatches_encodeSum ht h, all_isContinuation_encodeSum t cp⟩
  cases strict with
  | true => exact strictly
  | false => exact Laws.decSelects_of_strict strictly

theorem decInRange_encodeSum {t : Tier} {cp : CodePoint} (h : encInRange t cp = true) :
    decInRange t (BitVec.ofNat 48 (encodeSum t cp.toNat)) = true :=
  decInRange_of_decSelects (decSelects_encodeSum h false)

/-- A byte of the form `10xxxxxx` is one of 0x80 to 0xBF (rule R64). -/
theorem isContinuation_iff_le (b : Byte) : isContinuation b = true ↔ 0x80#8 ≤ b ∧ b ≤ 0xBF#8 := by
  rw [isContinuation_iff, BitVec.le_def, BitVec.le_def, BitVec.toNat_ofNat, BitVec.toNat_ofNat]
  omega

/-- Settles O23: an encoding lies in its tier's decoder range (`decInRange_encodeSum`), which bounds its leading byte
and its width, and its other bytes are continuation bytes (`all_isContinuation_encodeSum`). -/
theorem encoderOutputShape : Obligations.EncoderOutputShape := by
  unfold Obligations.EncoderOutputShape
  intro t cp s h
  obtain ⟨-, -, hlen⟩ := t.len_bounds
  have range := decInRange_encodeSum h
  obtain ⟨leadLo, leadHi⟩ := leadByte_bounds_of_decInRange range
  refine ⟨encOk t.bytes (BitVec.ofNat 48 (encodeSum t cp.toNat)), ?observed, rfl, hlen, fun ht => ⟨leadLo, ?lead⟩,
    fun ht => ?tier1, fun k h1 hk => ?cont, toNat_lt_of_decInRange range, (decInRange_iff t _).mp range⟩
  case observed => rw [observeEnc_eq, channelEncode_of_encInRange h]
  case lead => rwa [Tier.leadMax, if_neg ht] at leadHi
  case tier1 => rwa [Tier.leadMax, if_pos ht] at leadHi
  case cont =>
    have cont := (all_isContinuation_iff t _).mp (all_isContinuation_encodeSum t cp) k h1 hk
    exact (isContinuation_iff_le _).mp (beq_iff_eq.mpr cont)

/-! ### The payload of an encoding is its code point -/

theorem getLsbD_contByte (cp : CodePoint) (lo : Nat) {i : Nat} (hi : i < 6) :
    (contByte cp lo).getLsbD i = cp.getLsbD (lo + i) := by
  rw [contByte_eq_append]
  exact BitVec.getLsbD_append.trans (by simp [hi])

theorem getLsbD_leadByte {t : Tier} (ht : t ≠ .t1) {cp : CodePoint} (h : encInRange t cp = true) {i : Nat}
    (hi : i < 7 - t.bytes) : (leadByte t cp).getLsbD i = cp.getLsbD (t.shift + i) := by
  have tag : ∀ t ∈ Tier.all, ∀ i < 7 - t.bytes, t.tag.getLsbD i = false := by decide
  have hi8 : i < 8 := by omega
  rw [leadByte_eq ht h, BitVec.getLsbD_or, tag t t.mem_all i hi, Bool.or_false, BitVec.getLsbD_setWidth,
    BitVec.getLsbD_extractLsb', decide_eq_true hi, decide_eq_true hi8, Bool.true_and, Bool.true_and]

/-- The payloads of an encoding put together are the code point (rules R74, R75, R110). -/
theorem decodedCp_encodeSum {t : Tier} (ht : t ≠ .t1) {cp : CodePoint} (h : encInRange t cp = true) :
    decodedCp t (BitVec.ofNat 48 (encodeSum t cp.toNat)) = cp := by
  have h0 := t.bytes_ne_zero
  have payload := leadBits_add_shift ht
  rw [Tier.shift_eq] at payload
  -- the byte in lane m, and the bit of the packed value that is its bit j
  have lane {m j : Nat} (hm : m < t.bytes) (hj : j < 8) :
      (BitVec.ofNat 48 (encodeSum t cp.toNat)).getLsbD (8 * m + j) =
        (if t.bytes - 1 - m = 0 then leadByte t cp else contByte cp (6 * m)).getLsbD j := by
    have byte := seqByte_encodeSum ht cp (k := t.bytes - 1 - m) (by omega)
    rw [seqByte, show t.bytes - 1 - (t.bytes - 1 - m) = m by omega] at byte
    rw [← byte, getLsbD_byteLane]
    simp [hj]
  apply BitVec.eq_of_getLsbD_eq
  intro i _
  by_cases slice : i < 6 * (t.bytes - 1)
  · have bit := getLsbD_decodedCp_slice ht (BitVec.ofNat 48 (encodeSum t cp.toNat)) (m := i / 6) (i := i % 6)
      (by omega) (by omega)
    rw [Nat.div_add_mod] at bit
    rw [bit, lane (by omega) (by omega), if_neg (by omega), getLsbD_contByte cp _ (by omega), Nat.div_add_mod]
  by_cases lead : i < t.payloadBits
  · obtain ⟨j, rfl⟩ := Nat.exists_eq_add_of_le (Nat.le_of_not_lt slice)
    rw [getLsbD_decodedCp_lead ht _ (by omega), lane (by omega) (by omega), if_pos (Nat.sub_self _),
      getLsbD_leadByte ht h (by omega), Tier.shift_eq]
  · rw [(toNat_lt_two_pow_iff_getLsbD _ _).mp (toNat_decodedCp_lt ht _) i (by omega),
      (toNat_lt_two_pow_iff_getLsbD _ _).mp (toNat_lt_payloadBits h) i (by omega)]

/-- DECODE's value of an encoding is the code point (rule R110). -/
theorem decodeValue_encodeSum {t : Tier} {cp : CodePoint} (h : encInRange t cp = true) :
    decodeValue t (BitVec.ofNat 48 (encodeSum t cp.toNat)).toNat = cp.toNat := by
  by_cases ht : t = .t1
  · subst ht
    have hlt : cp.toNat < 2 ^ 7 := toNat_lt_payloadBits h
    rw [toNat_encodeSum_t1 h]
    exact Nat.mod_eq_of_lt hlt
  · rw [← toNat_decodedCp ht, decodedCp_encodeSum ht h]

/-! ### The shortest form -/

/-- The two-byte overlong forms have a leading byte below 0xC2 (rule R110). -/
theorem lead_of_overlong_t2 {p : Packed} (h : 0xC080#48 ≤ p ∧ p ≤ 0xC1BF#48) : seqByte 2 p 0 ≤ 0xC1#8 := by
  obtain ⟨lo, hi⟩ : 0xC080 ≤ p.toNat ∧ p.toNat ≤ 0xC1BF := h
  rw [BitVec.le_def, toNat_seqByte, patternByte, BitVec.toNat_ofNat]
  omega

/-- The three-byte overlong forms have 0xE0 and then a byte below 0xA0 (rule R110). -/
theorem bytes_of_overlong_t3 {p : Packed} (h : 0xE08080#48 ≤ p ∧ p ≤ 0xE09FBF#48) :
    seqByte 3 p 0 = 0xE0#8 ∧ seqByte 3 p 1 ≤ 0x9F#8 := by
  obtain ⟨lo, hi⟩ : 0xE08080 ≤ p.toNat ∧ p.toNat ≤ 0xE09FBF := h
  rw [← BitVec.toNat_inj, BitVec.le_def, toNat_seqByte, toNat_seqByte, patternByte, patternByte, BitVec.toNat_ofNat,
    BitVec.toNat_ofNat]
  omega

/-- No encoding is a two-byte overlong form: its leading byte would be 0xC2 at least (rules R102, R110). -/
theorem encodeSum_not_overlong_t2 {t : Tier} {cp : CodePoint} (h : encInRange t cp = true) :
    ¬(0xC080#48 ≤ BitVec.ofNat 48 (encodeSum t cp.toNat) ∧
      BitVec.ofNat 48 (encodeSum t cp.toNat) ≤ 0xC1BF#48) := by
  intro overlong
  have inRange : decInRange .t2 (BitVec.ofNat 48 (encodeSum t cp.toNat)) = true :=
    (decInRange_iff .t2 _).mpr ⟨overlong.1, BitVec.le_trans overlong.2 (by decide)⟩
  obtain rfl := decInRange_unique (decInRange_encodeSum h) inRange
  have small := lead_of_overlong_t2 overlong
  have lead : _ = leadByte .t2 cp := seqByte_encodeSum (t := .t2) (by decide) cp (k := 0) (by decide)
  exact absurd (BitVec.le_trans (leadByte_t2_bounds h).1 (lead ▸ small)) (by decide)

/-- No encoding is a three-byte overlong form: under 0xE0 its next byte would be 0xA0 at least (rules R103, R110). -/
theorem encodeSum_not_overlong_t3 {t : Tier} {cp : CodePoint} (h : encInRange t cp = true) :
    ¬(0xE08080#48 ≤ BitVec.ofNat 48 (encodeSum t cp.toNat) ∧
      BitVec.ofNat 48 (encodeSum t cp.toNat) ≤ 0xE09FBF#48) := by
  intro overlong
  have inRange : decInRange .t3 (BitVec.ofNat 48 (encodeSum t cp.toNat)) = true :=
    (decInRange_iff .t3 _).mpr ⟨overlong.1, BitVec.le_trans overlong.2 (by decide)⟩
  obtain rfl := decInRange_unique (decInRange_encodeSum h) inRange
  obtain ⟨first, small⟩ := bytes_of_overlong_t3 overlong
  have lead : _ = leadByte .t3 cp := seqByte_encodeSum (t := .t3) (by decide) cp (k := 0) (by decide)
  have second : _ = contByte cp 6 := seqByte_encodeSum (t := .t3) (by decide) cp (k := 1) (by decide)
  exact absurd (BitVec.le_trans (le_contByte_of_leadByte_t3 h (lead.symm.trans first)) (second ▸ small)) (by decide)

/-- A success of DECODE is the value of the tier in whose range P lies, and drives that tier's length (rule R140). -/
theorem channelDecode_success {strict : Bool} {p : Packed} {m : Len} {cp : CodePoint}
    (h : channelDecode strict p = ⟨0#2, m, cp⟩) :
    ∃ u, decInRange u p = true ∧ m.toNat = u.bytes ∧ cp = BitVec.ofNat 32 (decodeValue u p.toNat) := by
  by_cases inRange : ∃ u, decInRange u p = true
  · obtain ⟨u, hu⟩ := inRange
    obtain ⟨-, -, hlen⟩ := u.len_bounds
    rw [channelDecode_of_decInRange strict hu] at h
    split at h
    next => cases congrArg DecOutputs.status h
    next =>
      cases h
      exact ⟨u, hu, hlen, rfl⟩
  · rw [channelDecode_of_no_range strict (by simpa using inRange)] at h
    cases congrArg DecOutputs.status h

/-- No pattern that decodes to a code point is shorter than its tier: an earlier tier's payload ends below that tier's
range (rules R66, R110, R149). -/
theorem bytes_le_of_channelDecode {strict : Bool} {t : Tier} {p : Packed} {m : Len} {cp : CodePoint}
    (ht : encInRange t cp = true) (h : channelDecode strict p = ⟨0#2, m, cp⟩) : t.bytes ≤ m.toNat := by
  obtain ⟨u, hu, hlen, rfl⟩ := channelDecode_success h
  rw [hlen]
  by_contra shorter
  have below := Tier.encHi_lt_encLo (Nat.lt_of_not_le shorter)
  have payload := toNat_decoded_lt hu
  rw [← Tier.encHi_add_one] at payload
  have least := ((encInRange_iff t _).mp ht).1
  omega

/-- Settles O24: the payload of an encoding is its code point (`decodeValue_encodeSum`), which is at least ENC_LO(n); no
encoding is one of the listed overlong forms; and any pattern of the code point has at least the length of its tier
(`bytes_le_of_channelDecode`). -/
theorem encoderEmitsOnlyTheShortestForm : Obligations.EncoderEmitsOnlyTheShortestForm := by
  unfold Obligations.EncoderEmitsOnlyTheShortestForm
  intro cp s o legal ho
  obtain ⟨t, ht⟩ := (exists_encInRange_iff cp).mpr legal
  rw [observeEnc_eq, channelEncode_of_encInRange ht] at ho
  obtain rfl := Option.some.inj ho
  refine ⟨fun u hu => ?payload, encodeSum_not_overlong_t2 ht, encodeSum_not_overlong_t3 ht, fun p m hp => ?shortest⟩
  case payload =>
    obtain rfl := encInRange_unique ht hu
    exact (decodeValue_encodeSum ht).symm ▸ ((encInRange_iff t cp).mp ht).1
  case shortest =>
    obtain ⟨-, -, hlen⟩ := t.len_bounds
    rw [observeDec_eq] at hp
    exact Nat.le_trans (Nat.le_of_eq hlen) (bytes_le_of_channelDecode ht (Option.some.inj hp))

end Sys2Proof.Machine
end

section
/-!
PROOFS. The decoder channel case by case (rules R141 to R147) and as a whole (R140, R148, R153): each case is selected
by its range and, under STRICT, by its mask, and puts its payload slices side by side; STRICT adds one failure and
nothing else; and decoding undoes encoding (R150), while encoding undoes decoding on canonical patterns alone (R151).
-/
namespace Sys2Proof

open Machine

/-! ### What selects a DEC case -/

/-- A tier's DEC case is selected by its range, which lies in its leading tag's block, and under STRICT by its mask
(rules R69, R71, R73). -/
theorem selectDec_eq_decCase_forms (t : Tier) (p : Packed) :
    (selectDec false p = t.decCase p ↔ t.decLo ≤ p ∧ p ≤ t.decHi) ∧
    (selectDec false p = t.decCase p → p &&& t.tagMask = t.tagMatch) ∧
    (selectDec true p = t.decCase p ↔ p &&& t.strictMask = t.strictMatch) := by
  rw [selectDec_eq_decCase_iff, selectDec_eq_decCase_iff, decSelects_false]
  exact ⟨decInRange_iff t p, tagMatches_of_decInRange, decSelects_true_iff_and t p⟩

/-- Tier 1 has no continuation byte, so both builds select it by its range (rule R141). -/
theorem decSelects_t1 (strict : Bool) (p : Packed) : decSelects strict .t1 p = decInRange .t1 p := by
  have vacuous : (contBytes .t1 p).all isContinuation = true := rfl
  rw [decSelects, vacuous, Bool.or_true, Bool.and_true]

theorem selectDec_eq_decT1_iff_lt (strict : Bool) (p : Packed) : selectDec strict p = .decT1 p ↔ p.toNat < 2 ^ 7 := by
  refine (selectDec_eq_decCase_iff strict .t1 p).trans ?_
  rw [decSelects_t1, decInRange_t1_iff]

/-- Some continuation byte is not of the form `10xxxxxx` (rules R73, R148). -/
theorem all_isContinuation_eq_false_iff (t : Tier) (p : Packed) :
    (contBytes t p).all isContinuation = false ↔
      ∃ k, 1 ≤ k ∧ k < t.bytes ∧ (seqByte t.bytes p k).extractLsb' 6 2 ≠ 0b10#2 := by
  rw [← Bool.not_eq_true, all_isContinuation_iff]
  push Not
  rfl

/-- An in-range pattern is left out by STRICT alone, for a bad continuation byte (rules R73, R153). -/
theorem decSelects_eq_false_iff {t : Tier} {p : Packed} (h : decInRange t p = true) (strict : Bool) :
    decSelects strict t p = false ↔
      strict = true ∧ ∃ k, 1 ≤ k ∧ k < t.bytes ∧ (seqByte t.bytes p k).extractLsb' 6 2 ≠ 0b10#2 := by
  rw [← all_isContinuation_eq_false_iff, decSelects, h, Bool.true_and, Bool.or_eq_false_iff, Bool.not_eq_false']

end Sys2Proof

namespace Sys2Proof.Machine

open Sys2Proof

/-! ### Payload slices side by side -/

/-- At 32 bits, bits side by side are the OR of the two fields at their places. -/
theorem setWidth_append_eq_or {m k : Nat} (high : BitVec m) (low : BitVec k) :
    ((high ++ low).setWidth 32 : CodePoint) = high.setWidth 32 <<< k ||| low.setWidth 32 := by
  apply BitVec.eq_of_getLsbD_eq
  intro i hi
  simp only [BitVec.getLsbD_setWidth, BitVec.getLsbD_append, BitVec.getLsbD_or, BitVec.getLsbD_shiftLeft, hi]
  by_cases h : i < k
  · simp [h]
  · rw [BitVec.getLsbD_of_ge low i (by omega)]
    simp [h, show i - k < 32 by omega]

/-- A byte under a mask of its k low bits is the slice of k bits at its lane (rule R75). -/
theorem byteLane_and_mask (p : Packed) (j : Nat) {k : Nat} (hk : k ≤ 8) {mask : Byte}
    (hmask : mask.toNat = 2 ^ k - 1) :
    ((byteLane p j &&& mask).setWidth 32 : CodePoint) = (p.extractLsb' (8 * j) k).setWidth 32 := by
  apply BitVec.eq_of_toNat_eq
  rw [BitVec.toNat_setWidth, BitVec.toNat_setWidth, BitVec.toNat_and, hmask, Nat.and_two_pow_sub_one_eq_mod, byteLane,
    BitVec.extractLsb'_toNat, BitVec.extractLsb'_toNat, Nat.mod_mod_of_dvd _ (Nat.pow_dvd_pow 2 hk)]

/-- The lead payload is the slice of the 7-n low bits of its lane (rule R75). -/
theorem leadPayload_eq_slice {t : Tier} (ht : t ≠ .t1) (p : Packed) :
    leadPayload t (byteLane p (t.bytes - 1)) =
      (p.extractLsb' (8 * (t.bytes - 1)) (7 - t.bytes)).setWidth 32 <<< (6 * (t.bytes - 1)) := by
  have mask : t.lmask.toNat = 2 ^ (7 - t.bytes) - 1 := by
    cases t with
    | t1 => exact absurd rfl ht
    | _ => rfl
  rw [leadPayload, byteLane_and_mask p _ (by omega) mask, Tier.shift_eq]

/-- A continuation payload is the slice of the six low bits of its lane (rule R75). -/
theorem contPayload_eq_slice (p : Packed) (j lo : Nat) :
    contPayload (byteLane p j) lo = (p.extractLsb' (8 * j) 6).setWidth 32 <<< lo := by
  rw [contPayload, byteLane_and_mask p j (k := 6) (by decide) rfl]

/-- One more payload puts its slice beside the slices taken so far (rule R75). -/
theorem payload_snoc {n j : Nat} {acc : CodePoint} {x : BitVec n} {p : Packed}
    (h : acc = x.setWidth 32 <<< (6 * (j + 1))) :
    acc ||| contPayload (byteLane p j) (6 * j) = (x ++ p.extractLsb' (8 * j) 6).setWidth 32 <<< (6 * j) := by
  rw [h, contPayload_eq_slice, setWidth_append_eq_or, BitVec.shiftLeft_or_distrib, ← BitVec.shiftLeft_add,
    Nat.mul_succ, Nat.add_comm]

/-- The last payload stands at bit 0 (rule R75). -/
theorem payload_last {n : Nat} {acc : CodePoint} {x : BitVec n} {p : Packed} (h : acc = x.setWidth 32 <<< 6) :
    acc ||| contPayload (byteLane p 0) 0 = (x ++ p.extractLsb' 0 6).setWidth 32 :=
  (payload_snoc (j := 0) h).trans (BitVec.shiftLeft_zero _)

theorem decodedCp_t2 (p : Packed) :
    decodedCp .t2 p = (p.extractLsb' 8 5 ++ p.extractLsb' 0 6).setWidth 32 :=
  payload_last (leadPayload_eq_slice (t := .t2) (by decide) p)

theorem decodedCp_t3 (p : Packed) :
    decodedCp .t3 p = (p.extractLsb' 16 4 ++ p.extractLsb' 8 6 ++ p.extractLsb' 0 6).setWidth 32 :=
  payload_last (payload_snoc (j := 1) (leadPayload_eq_slice (t := .t3) (by decide) p))

theorem decodedCp_t4 (p : Packed) :
    decodedCp .t4 p =
      (p.extractLsb' 24 3 ++ p.extractLsb' 16 6 ++ p.extractLsb' 8 6 ++ p.extractLsb' 0 6).setWidth 32 :=
  payload_last (payload_snoc (j := 1) (payload_snoc (j := 2) (leadPayload_eq_slice (t := .t4) (by decide) p)))

theorem decodedCp_t5 (p : Packed) :
    decodedCp .t5 p =
      (p.extractLsb' 32 2 ++ p.extractLsb' 24 6 ++ p.extractLsb' 16 6 ++ p.extractLsb' 8 6 ++
        p.extractLsb' 0 6).setWidth 32 :=
  payload_last (payload_snoc (j := 1) (payload_snoc (j := 2) (payload_snoc (j := 3)
    (leadPayload_eq_slice (t := .t5) (by decide) p))))

theorem decodedCp_t6 (p : Packed) :
    decodedCp .t6 p =
      (p.extractLsb' 40 1 ++ p.extractLsb' 32 6 ++ p.extractLsb' 24 6 ++ p.extractLsb' 16 6 ++ p.extractLsb' 8 6 ++
        p.extractLsb' 0 6).setWidth 32 :=
  payload_last (payload_snoc (j := 1) (payload_snoc (j := 2) (payload_snoc (j := 3) (payload_snoc (j := 4)
    (leadPayload_eq_slice (t := .t6) (by decide) p)))))

/-! ### What a DEC case delivers -/

/-- The top two bits of the trailing lanes of P are `10` (rules R142 to R146, R148). -/
theorem all_isContinuation_iff_slices (t : Tier) (p : Packed) :
    (contBytes t p).all isContinuation = true ↔ ∀ j < t.bytes - 1, p.extractLsb' (8 * j + 6) 2 = 0b10#2 := by
  have slice (j : Nat) : (byteLane p j).extractLsb' 6 2 = p.extractLsb' (8 * j + 6) 2 := by
    ext i hi
    simp [byteLane, show 6 + i < 8 by omega, Nat.add_assoc]
  simp only [all_isContinuation_iff_lanes, ← isContinuation_iff_and, isContinuation, slice, beq_iff_eq]

/-- Unless the build is strict and a trailing lane is bad, a case of a tier n ≥ 2 delivers its payloads, which are no
more than the tier's end (rules R142 to R146). -/
theorem exec_decCase_of_good {t : Tier} (ht : t ≠ .t1) {p : Packed} {s : State} {cp : CodePoint}
    (hcp : decodedCp t p = cp)
    (good : s.build.decStrictCont = true → ∀ j < t.bytes - 1, p.extractLsb' (8 * j + 6) 2 = 0b10#2) :
    exec (t.decCase p) s = .next (s.setDec (decOk t.bytes cp)) ∧ cp ≤ t.encHi := by
  subst hcp
  have bound := toNat_decodedCp_lt ht p
  rw [← Tier.encHi_add_one] at bound
  have passes : ¬(s.build.decStrictCont && !(contBytes t p).all isContinuation) = true := by
    rw [← all_isContinuation_iff_slices] at good
    simpa using good
  refine ⟨?_, BitVec.le_def.mpr (Nat.le_of_lt_succ bound)⟩
  rw [exec_decCase ht, finishDec_eq, if_neg passes]

/-- In the strict build a bad trailing lane makes a case of a tier n ≥ 2 raise (rules R142 to R146, R148). -/
theorem exec_decCase_of_bad {t : Tier} (ht : t ≠ .t1) {p : Packed} {s : State} (hs : s.build.decStrictCont = true)
    (bad : ∃ j < t.bytes - 1, p.extractLsb' (8 * j + 6) 2 ≠ 0b10#2) :
    exec (t.decCase p) s = .next (s.setDec decError) := by
  have fails : (s.build.decStrictCont && !(contBytes t p).all isContinuation) = true := by
    rw [hs, Bool.true_and, Bool.not_eq_true', ← Bool.not_eq_true, all_isContinuation_iff_slices]
    simpa using bad
  rw [exec_decCase ht, finishDec_eq, if_pos fails]

/-! ### The round trip -/

/-- Either build decodes an encoding to its code point with the length of its tier (rule R150). -/
theorem channelDecode_encodeSum {t : Tier} {cp : CodePoint} (h : encInRange t cp = true) (strict : Bool) :
    channelDecode strict (BitVec.ofNat 48 (encodeSum t cp.toNat)) = decOk t.bytes cp :=
  (channelDecode_eq_decOk_iff strict t _ cp).mpr
    ⟨decSelects_encodeSum h strict, by rw [decodeValue_encodeSum h, BitVec.ofNat_toNat, BitVec.setWidth_eq]⟩

/-- Settles O41: the encoding of a code point in tier t is selected and decoded by tier t in either build
(`channelDecode_encodeSum`), and the decode leaves the encoder's outputs standing (`evaluate_eq_settle`). -/
theorem decodingAnEncodedCodePointGivesItBack : Obligations.DecodingAnEncodedCodePointGivesItBack := by
  unfold Obligations.DecodingAnEncodedCodePointGivesItBack
  intro cp s legal
  obtain ⟨t, ht⟩ := (exists_encInRange_iff cp).mpr legal
  have encoded : some (channelEncode cp) = some (encOk t.bytes _) := congrArg some (channelEncode_of_encInRange ht)
  have decoded := congrArg some (channelDecode_encodeSum ht s.build.decStrictCont)
  exact ⟨_, _, _, _, evaluate_eq_settle (.enc cp) s, encoded, evaluate_eq_settle (.dec _) _, decoded, encoded⟩

/-! ### The decoder channel: each case -/

/-- Settles O27: range, high slice and mask all say that P is below 2^7, in both builds (`selectDec_eq_decT1_iff_lt`);
leading 0x00 bytes are no part of the packed value (`packBytes_zero_cons`). -/
theorem decTier1IsTheValueItself : Obligations.DecTier1IsTheValueItself := by
  unfold Obligations.DecTier1IsTheValueItself
  refine ⟨fun p => ⟨(selectDec_eq_decCase_forms .t1 p).1, ?slice, fun strict => ?mask⟩, exec_decT1,
    fun s => ?samples⟩
  case slice => rw [selectDec_eq_decT1_iff_lt, extractLsb'_eq_zero_iff (k := 7) p (by decide)]
  case mask => exact (selectDec_eq_decT1_iff_lt strict p).trans (and_highMask_eq_zero_iff p 7).symm
  case samples =>
    simp only [observeDec_eq, packBytes_zero_cons, implies_true, and_true]
    cases s.build.decStrictCont <;> decide

/-- Settles O28: the three selection forms are those of every tier; the case puts its payload slices side by side
(`decodedCp_t2`), unless the strict build finds a bad trailing lane
(`exec_decCase_of_good`, `exec_decCase_of_bad`). -/
theorem decTier2UnpacksTwoBytes : Obligations.DecTier2UnpacksTwoBytes := by
  unfold Obligations.DecTier2UnpacksTwoBytes
  refine ⟨selectDec_eq_decCase_forms .t2, fun p s good => ?good, fun p s hs bad => ?bad, fun s => ?samples⟩
  case good =>
    refine exec_decCase_of_good (t := .t2) (by decide) (decodedCp_t2 p) fun hs j hj => ?_
    obtain rfl : j = 0 := Nat.lt_one_iff.mp hj
    exact good hs
  case bad => exact exec_decCase_of_bad (t := .t2) (by decide) hs ⟨0, by decide, bad⟩
  case samples =>
    simp only [observeDec_eq, List.forall_mem_cons, List.not_mem_nil, false_implies, implies_true, and_true]
    cases s.build.decStrictCont <;> decide

/-- Settles O29, as O28 with three bytes (`decodedCp_t3`). -/
theorem decTier3UnpacksThreeBytes : Obligations.DecTier3UnpacksThreeBytes := by
  unfold Obligations.DecTier3UnpacksThreeBytes
  refine ⟨selectDec_eq_decCase_forms .t3, fun p s good => ?good, fun p s hs bad => ?bad, fun s => ?samples⟩
  case good =>
    refine exec_decCase_of_good (t := .t3) (by decide) (decodedCp_t3 p) fun hs => ?_
    obtain ⟨second, third⟩ := good hs
    exact Nat.forall_lt_succ_right.mpr ⟨Nat.forall_lt_succ_right.mpr ⟨by simp, third⟩, second⟩
  case bad =>
    refine exec_decCase_of_bad (t := .t3) (by decide) hs ?_
    obtain second | third := bad
    · exact ⟨1, by decide, second⟩
    · exact ⟨0, by decide, third⟩
  case samples => simp only [observeDec_eq]; cases s.build.decStrictCont <;> decide

/-- Settles O30, as O28 with four bytes (`decodedCp_t4`). -/
theorem decTier4UnpacksFourBytes : Obligations.DecTier4UnpacksFourBytes := by
  unfold Obligations.DecTier4UnpacksFourBytes
  refine ⟨selectDec_eq_decCase_forms .t4, fun p s => exec_decCase_of_good (t := .t4) (by decide) (decodedCp_t4 p),
    fun p s => exec_decCase_of_bad (t := .t4) (by decide), fun s => ?samples⟩
  case samples => simp only [observeDec_eq]; cases s.build.decStrictCont <;> decide

/-- Settles O31, as O28 with five bytes (`decodedCp_t5`). -/
theorem decTier5UnpacksFiveBytes : Obligations.DecTier5UnpacksFiveBytes := by
  unfold Obligations.DecTier5UnpacksFiveBytes
  refine ⟨selectDec_eq_decCase_forms .t5, fun p s => exec_decCase_of_good (t := .t5) (by decide) (decodedCp_t5 p),
    fun p s => exec_decCase_of_bad (t := .t5) (by decide), fun s => ?samples⟩
  case samples => simp only [observeDec_eq]; cases s.build.decStrictCont <;> decide

/-- From 0xFE0000000000 up no range holds P (rule R146). -/
theorem no_decInRange_of_ge {p : Packed} (h : 0xFE0000000000#48 ≤ p) (t : Tier) : decInRange t p = false := by
  refine (no_decInRange_iff_gap p).mpr ?_ t
  have hp : p ≤ 0xFFFFFFFFFFFF#48 := Nat.le_of_lt_succ p.isLt
  exact .inr (.inr (.inr (.inr (.inr ⟨BitVec.le_trans (by decide) h, hp⟩))))

/-- Settles O32, as O28 with six bytes (`decodedCp_t6`). -/
theorem decTier6UnpacksSixBytes : Obligations.DecTier6UnpacksSixBytes := by
  unfold Obligations.DecTier6UnpacksSixBytes
  refine ⟨selectDec_eq_decCase_forms .t6, fun p s => exec_decCase_of_good (t := .t6) (by decide) (decodedCp_t6 p),
    fun p s => exec_decCase_of_bad (t := .t6) (by decide), fun s => ?samples⟩
  case samples =>
    have above (p : Packed) (h : 0xFE0000000000#48 ≤ p) : observeDec p s = some ⟨2#2, 0#3, 0#32⟩ :=
      (observeDec_eq p s).trans (congrArg some (channelDecode_of_no_range _ (no_decInRange_of_ge h)))
    refine ⟨?_, ?_, ?_, above⟩ <;> rw [observeDec_eq] <;> cases s.build.decStrictCont <;> decide

/-- The listed patterns that fail lie in gaps between the ranges: lone bytes, a lead byte with one byte of two, and a
leading byte 0xFE or 0xFF (rule R147). -/
theorem no_decInRange_of_listed {p : Packed}
    (h : (0x80#48 ≤ p ∧ p ≤ 0xBF#48) ∨ (0xC0#48 ≤ p ∧ p ≤ 0xFF#48) ∨ p = 0xE282#48 ∨
      byteLane p 5 = 0xFE#8 ∨ byteLane p 5 = 0xFF#8) (t : Tier) : decInRange t p = false := by
  refine (no_decInRange_iff_gap p).mpr ?_ t
  have hp := p.isLt
  simp only [← BitVec.toNat_inj, toNat_byteLane, BitVec.le_def, BitVec.toNat_ofNat] at h ⊢
  omega

/-- Settles O33: no tier is selected exactly when no range holds P, or STRICT leaves out the one that does
(`decSelects_eq_false_iff`); the listed patterns lie in no range (`no_decInRange_of_listed`). -/
theorem decErrorIsInvalidEncoding : Obligations.DecErrorIsInvalidEncoding := by
  unfold Obligations.DecErrorIsInvalidEncoding
  refine ⟨fun strict p => ?selected, fun strict p => ?noRow, exec_decErr, fun p s h => ?listed, fun s => ?samples⟩
  case selected =>
    rw [selectDec_eq_decErr_iff]
    constructor
    · intro unselected
      refine or_iff_not_imp_left.mpr fun inRange => ?_
      obtain ⟨t, ht⟩ : ∃ t, decInRange t p = true := by simpa using inRange
      obtain ⟨hstrict, k, bad⟩ := (decSelects_eq_false_iff ht strict).mp (unselected t)
      exact ⟨hstrict, t, k, ht, bad⟩
    · intro fails u
      rw [← Bool.not_eq_true]
      intro selected
      have hu := decInRange_of_decSelects selected
      obtain outside | ⟨hstrict, t, k, ht, bad⟩ := fails
      · exact Bool.false_ne_true ((outside u).symm.trans hu)
      · obtain rfl := decInRange_unique ht hu
        exact Bool.false_ne_true (((decSelects_eq_false_iff ht strict).mpr ⟨hstrict, k, bad⟩).symm.trans selected)
  case noRow => simp only [selectDec_eq_decErr_iff, ne_eq, selectDec_eq_decCase_iff, Bool.not_eq_true]
  case listed => rw [observeDec_eq, channelDecode_of_no_range _ (no_decInRange_of_listed h)]; rfl
  case samples => simp only [observeDec_eq]; cases s.build.decStrictCont <;> decide

/-! ### The decoder channel: the whole -/

/-- Settles O34: the refinement of DECODE by the selected case (`exec_selectDec`). -/
theorem decoderCasesComputeDecode : Obligations.DecoderCasesComputeDecode := by
  unfold Obligations.DecoderCasesComputeDecode
  exact exec_selectDec

/-- An in-range pattern is an error exactly when the build does not select it (rules R140, R148). -/
theorem channelDecode_eq_decError_iff {t : Tier} {p : Packed} (h : decInRange t p = true) (strict : Bool) :
    channelDecode strict p = decError ↔ decSelects strict t p = false := by
  refine ⟨fun raises => ?_, channelDecode_of_not_decSelects h⟩
  rw [← Bool.not_eq_true]
  intro selected
  rw [channelDecode_of_decSelects selected] at raises
  cases congrArg DecOutputs.status raises

/-- Settles O36: the tier's own case and the selected one both deliver DECODE(P) (`exec_decCase_eq_channelDecode`,
`exec_selectDec`), which raises exactly when STRICT leaves P out (`decSelects_eq_false_iff`). -/
theorem strictCheckAfterRangeSelection : Obligations.StrictCheckAfterRangeSelection := by
  unfold Obligations.StrictCheckAfterRangeSelection
  intro t p s h
  have delivers := exec_decCase_eq_channelDecode h s
  refine ⟨delivers.trans (exec_selectDec p s).symm, fun hs => ?strict, fun hs => ?permissive⟩
  case strict =>
    have raises := (channelDecode_eq_decError_iff h true).trans (decSelects_eq_false_iff h true)
    rw [eq_self, true_and] at raises
    rw [delivers, hs, ← raises]
    constructor
    · intro error
      rw [error]
      rfl
    · intro error
      injection error with state
      exact Option.some.inj (congrArg State.decOutputs state)
  case permissive =>
    rw [delivers, hs, channelDecode_of_decSelects ((decSelects_false t p).trans h)]
    exact ⟨_, rfl⟩

/-- Settles O38: nothing but STRICT's check leaves an in-range pattern out (`decSelects_eq_false_iff`). -/
theorem decoderMakesNoOtherCheck : Obligations.DecoderMakesNoOtherCheck := by
  unfold Obligations.DecoderMakesNoOtherCheck
  intro t p s h good
  have selected : decSelects s.build.decStrictCont t p = true := by
    rw [← Bool.not_eq_false, decSelects_eq_false_iff h]
    rintro ⟨hs, k, h1, hk, bad⟩
    exact bad (good hs k h1 hk)
  exact ⟨_, (observeDec_eq p s).trans (congrArg some (channelDecode_of_decSelects selected))⟩

/-- A success is one of a selected tier: with none selected DECODE raises (rules R73, R140). -/
theorem exists_decSelects_of_success {strict : Bool} {p : Packed} (h : (channelDecode strict p).status = 0#2) :
    ∃ t, decSelects strict t p = true := by
  by_contra unselected
  have unselected : ∀ t, decSelects strict t p = false := by simpa using unselected
  have raises : channelDecode strict p = decError := by
    by_cases inRange : ∃ t, decInRange t p = true
    · obtain ⟨t, ht⟩ := inRange
      exact channelDecode_of_not_decSelects ht (unselected t)
    · exact channelDecode_of_no_range strict (by simpa using inRange)
  rw [raises] at h
  cases h

/-- Settles O37: a success of the strict build is one of a selected tier (`exists_decSelects_of_success`), which the
permissive build selects as well (`Laws.decSelects_of_strict`) and delivers the same. -/
theorem strictAcceptsNothingNew : Obligations.StrictAcceptsNothingNew := by
  unfold Obligations.StrictAcceptsNothingNew
  intro p s u o hs hu ho success
  rw [observeDec_eq, hs] at ho
  obtain rfl := Option.some.inj ho
  obtain ⟨t, selected⟩ := exists_decSelects_of_success success
  rw [observeDec_eq, hu, channelDecode_of_decSelects selected,
    channelDecode_of_decSelects (Laws.decSelects_of_strict selected)]

/-! ### Encoding what was decoded -/

/-- An accepted pattern is in the image of ENCODE exactly when its own code point encodes to it, because decoding gives
back the code point that it encodes (rule R151). -/
theorem encodes_iff_of_channelDecode {strict : Bool} {p : Packed} {n : Len} {cp : CodePoint}
    (h : channelDecode strict p = ⟨0#2, n, cp⟩) :
    (∃ c, c ≤ Config.cpMax ∧ (channelEncode c).out = p) ↔ (channelEncode cp).out = p := by
  constructor
  · rintro ⟨c, legal, rfl⟩
    obtain ⟨t, ht⟩ := (exists_encInRange_iff c).mpr legal
    rw [channelEncode_of_encInRange ht] at h ⊢
    obtain rfl : c = cp := congrArg DecOutputs.cp ((channelDecode_encodeSum ht strict).symm.trans h)
    rw [channelEncode_of_encInRange ht]
  · intro encodes
    obtain ⟨u, hu, -, rfl⟩ := channelDecode_success h
    exact ⟨_, le_cpMax_of_toNat_lt (toNat_decoded_lt hu), encodes⟩

/-- The low end of every tier's decoder range decodes to 0, in both builds (rule R151). -/
theorem channelDecode_decLo (strict : Bool) (t : Tier) : channelDecode strict t.decLo = decOk t.bytes 0#32 := by
  cases t <;> cases strict <;> decide

/-- Settles O42: an accepted P is an encoding exactly when it is the one of its own code point
(`encodes_iff_of_channelDecode`); the six patterns all decode to 0 (`channelDecode_decLo`), which encodes to 0x00, and
0xC0C1 decodes to 1, which does not encode to it. -/
theorem encodingADecodedPatternOnlyOnCanonicalInputs : Obligations.EncodingADecodedPatternOnlyOnCanonicalInputs := by
  unfold Obligations.EncodingADecodedPatternOnlyOnCanonicalInputs
  simp only [observeEnc_eq, observeDec_eq, Option.map_some, Option.some_inj]
  refine ⟨fun p s n cp h => (encodes_iff_of_channelDecode h).symm, fun s p hp => ?zeros, fun s hs => ?nonCanonical⟩
  case zeros =>
    obtain ⟨t, -, rfl⟩ : ∃ t ∈ Tier.all, t.decLo = p := List.mem_map.mp hp
    have decoded := channelDecode_decLo s.build.decStrictCont t
    have canonical : (channelEncode 0#32).out = 0x00#48 := by decide
    rw [encodes_iff_of_channelDecode decoded, decoded, canonical]
    exact ⟨rfl, eq_comm⟩
  case nonCanonical =>
    have decoded : channelDecode false 0xC0C1#48 = ⟨0#2, 2#3, 0x01#32⟩ := by decide
    rw [hs, encodes_iff_of_channelDecode decoded]
    exact ⟨decoded, by decide⟩

end Sys2Proof.Machine
end

section
/-!
PROOFS. Errors are values on the ports and nothing else: a channel's status, length and data have the form that
rules R203 and R205 give an error exactly on the channel's error case, and no step and no run ends in anything but a
state (rules R200, R204, R209).
-/
namespace Sys2Proof.Machine

open Sys2Proof

/-! ### Status codes and error forms (rules R203, R205) -/

theorem len_ne_zero_of_one_le {len : Len} (h : 1#3 ≤ len) : len ≠ 0#3 := by
  rintro rfl
  exact absurd h (by decide)

/-- A legal ENC triple drives status 0 or 1, and status 1 goes with length 0 and data 0 (rules R203, R205). -/
theorem EncOutputs.Legal.status_form {o : EncOutputs} (h : o.Legal) :
    (o.status = 0#2 ∨ o.status = 1#2) ∧ (o.status = 1#2 ↔ o.len = 0#3) ∧ (o.status = 1#2 → o.out = 0#48) := by
  obtain ⟨hstatus, hlen, -, -⟩ | ⟨hstatus, hlen, hout⟩ := h
  · have ok : o.status ≠ 1#2 := by rw [hstatus]; decide
    exact ⟨.inl hstatus, iff_of_false ok (len_ne_zero_of_one_le hlen), fun error => absurd error ok⟩
  · exact ⟨.inr hstatus, iff_of_true hstatus hlen, fun _ => hout⟩

/-- A legal DEC triple drives status 0 or 2, and status 2 goes with length 0 and data 0 (rules R203, R205). -/
theorem DecOutputs.Legal.status_form {o : DecOutputs} (h : o.Legal) :
    (o.status = 0#2 ∨ o.status = 2#2) ∧ (o.status = 2#2 ↔ o.len = 0#3) ∧ (o.status = 2#2 → o.cp = 0#32) := by
  obtain ⟨hstatus, hlen, -, -⟩ | ⟨hstatus, hlen, hcp⟩ := h
  · have ok : o.status ≠ 2#2 := by rw [hstatus]; decide
    exact ⟨.inl hstatus, iff_of_false ok (len_ne_zero_of_one_le hlen), fun error => absurd error ok⟩
  · exact ⟨.inr hstatus, iff_of_true hstatus hlen, fun _ => hcp⟩

/-- ENCODE drives InvalidCodepoint for the code points above `CP_MAX` alone (rules R77, R203). -/
theorem channelEncode_status_eq_one_iff (cp : CodePoint) : (channelEncode cp).status = 1#2 ↔ Config.cpMax < cp := by
  constructor
  · intro error
    by_contra legal
    obtain ⟨t, ht⟩ := (exists_encInRange_iff cp).mpr (BitVec.not_lt.mp legal)
    obtain ⟨ok, -⟩ := channelEncode_ok ht
    exact absurd (ok.symm.trans error) (by decide)
  · intro above
    rw [channelEncode_of_no_range (encInRange_of_cpMax_lt above)]
    rfl

/-- DECODE drives InvalidEncoding exactly when the build selects DEC.ERR (rules R147, R203). -/
theorem channelDecode_status_eq_two_iff (strict : Bool) (p : Packed) :
    (channelDecode strict p).status = 2#2 ↔ selectDec strict p = .decErr p := by
  rw [selectDec_eq_decErr_iff]
  constructor
  · intro error t
    rw [← Bool.not_eq_true]
    intro selected
    rw [channelDecode_of_decSelects selected] at error
    cases error
  · intro unselected
    obtain ⟨ok | error, -, -⟩ := (channelDecode_legal strict p).status_form
    · obtain ⟨t, selected⟩ := exists_decSelects_of_success ok
      exact absurd ((unselected t).symm.trans selected) Bool.false_ne_true
    · exact error

/-- Settles O49: what is observed are values of ENCODE and DECODE, whose legal forms tie the status to length and data
(`EncOutputs.Legal.status_form`, `DecOutputs.Legal.status_form`) and whose error status is that of the error case
(`channelEncode_status_eq_one_iff`, `channelDecode_status_eq_two_iff`). -/
theorem statusCodesAndErrorForms : Obligations.StatusCodesAndErrorForms := by
  unfold Obligations.StatusCodesAndErrorForms
  refine ⟨fun cp s => ?enc, fun p s => ?dec, fun s => ?zeroSucceeds⟩
  case enc =>
    obtain ⟨codes, hlen, hout⟩ := (channelEncode_legal cp).status_form
    exact ⟨_, observeEnc_eq cp s, codes, channelEncode_status_eq_one_iff cp, hlen, hout⟩
  case dec =>
    obtain ⟨codes, hlen, hcp⟩ := (channelDecode_legal s.build.decStrictCont p).status_form
    exact ⟨_, observeDec_eq p s, codes, channelDecode_status_eq_two_iff _ p, hlen, hcp⟩
  case zeroSucceeds =>
    have encoded : channelEncode 0x00#32 = ⟨0#2, 1#3, 0#48⟩ := by decide
    have decoded : channelDecode s.build.decStrictCont 0x00#48 = ⟨0#2, 1#3, 0#32⟩ := channelDecode_decLo _ .t1
    rw [observeEnc_eq, observeDec_eq, encoded, decoded]
    exact ⟨rfl, rfl⟩

/-! ### No step and no run stops (rules R200, R204, R209) -/

/-- A step holds or evaluates the host's next presentation; both answer a next state. -/
theorem exists_step_eq_next (s : State) : ∃ t, step s = .next t := by
  cases hs : s.script with
  | nil => exact ⟨s, step_nil s hs⟩
  | cons pr rest => exact ⟨_, step_eq_settle hs⟩

theorem safeRun (n : Nat) (s : State) : SafeRun n s := by
  induction n generalizing s with
  | zero => exact ⟨s, rfl⟩
  | succ n ih =>
    obtain ⟨t, hstep⟩ := exists_step_eq_next s
    obtain ⟨u, hrun⟩ := ih t
    exact ⟨u, (run_succ hstep n).trans hrun⟩

/-- Settles O59: every step answers a next state (`exists_step_eq_next`), and so does every run, by induction on its
length (`safeRun`). -/
theorem everyStepAndRunAnswersANextState : Obligations.EveryStepAndRunAnswersANextState := by
  unfold Obligations.EveryStepAndRunAnswersANextState
  exact ⟨exists_step_eq_next, safeRun⟩

end Sys2Proof.Machine
end

section
/-!
PROOFS. The leading byte names the length of a sequence: when its last bytes are missing, the packed value begins with
the leading byte of a longer tier, so that no tier's range holds it (rules R45, R72, R147).
-/
namespace Sys2Proof

/-! ### The leading byte names the length -/

/-- The leading bytes of the tiers do not overlap, and they rise with the length (rule R71). -/
theorem Tier.leadMax_lt_tag {t u : Tier} (h : u.bytes < t.bytes) : u.leadMax < t.tag := by
  have table : ∀ t ∈ Tier.all, ∀ u ∈ Tier.all, u.bytes < t.bytes → u.leadMax < t.tag := by decide
  exact table t t.mem_all u u.mem_all h

theorem ne_zero_of_tag_le {t : Tier} (ht : 1 < t.bytes) {b : Byte} (hb : t.tag ≤ b) : b ≠ 0#8 := by
  rintro rfl
  exact absurd (Tier.leadMax_lt_tag (u := .t1) ht) (BitVec.not_lt.mpr (BitVec.le_trans hb (by decide)))

end Sys2Proof

namespace Sys2Proof.Machine

open Sys2Proof

/-- A value that fills m bytes lies in the range of no tier of another length: a shorter tier leaves byte m-1 zero, and
a longer tier asks for a nonzero byte above it (rule R72). -/
theorem bytes_eq_of_leadByte_ne_zero {u : Tier} {q : Packed} {m : Nat} (hu : decInRange u q = true) (h1 : 1 ≤ m)
    (hq : q.toNat < 2 ^ (8 * m)) (lead : seqByte m q 0 ≠ 0#8) : u.bytes = m := by
  rcases Nat.lt_trichotomy u.bytes m with shorter | equal | longer
  · exact absurd (byteLane_eq_zero (toNat_lt_of_decInRange hu) (by omega)) lead
  · exact equal
  · obtain ⟨tag_le, -⟩ := leadByte_bounds_of_decInRange hu
    exact absurd (byteLane_eq_zero hq (by omega)) (ne_zero_of_tag_le (by omega) tag_le)

/-! ### Truncated sequences (spec 95, program 3) -/

theorem length_take_laneBytes {n m : Nat} (p : Packed) (hm : m ≤ n) : ((laneBytes n p).take m).length = m := by
  rw [List.length_take, length_laneBytes, Nat.min_eq_left hm]

/-- The first m bytes of a sequence begin with the sequence's leading byte (rules R43, R44). -/
theorem leadByte_packBytes_take {n m : Nat} (p : Packed) (h1 : 1 ≤ m) (hm : m ≤ n) (h6 : m ≤ 6) :
    seqByte m (packBytes ((laneBytes n p).take m)) 0 = seqByte n p 0 := by
  have hlen := length_take_laneBytes p hm
  have first := byteLane_packBytes ((laneBytes n p).take m) (by omega) 0 (by omega)
  rwa [List.getElem_take, getElem_laneBytes, hlen] at first

/-- No tier's range holds the first m < n bytes of a sequence of tier n: only tier m's could hold m bytes, and its
leading bytes end below tier n's (`Tier.leadMax_lt_tag`). -/
theorem no_decInRange_of_properPrefix {t : Tier} {p : Packed} (h : decInRange t p = true) {m : Nat} (h1 : 1 ≤ m)
    (hm : m < t.bytes) (u : Tier) : decInRange u (packBytes ((laneBytes t.bytes p).take m)) = false := by
  have h6 := t.bytes_le_six
  have hlen := length_take_laneBytes p hm.le
  have fits := toNat_packBytes_lt ((laneBytes t.bytes p).take m) (by omega)
  rw [hlen] at fits
  obtain ⟨tag_le, -⟩ := leadByte_bounds_of_decInRange h
  rw [← leadByte_packBytes_take p h1 hm.le (by omega)] at tag_le
  rw [← Bool.not_eq_true]
  intro hu
  obtain rfl := bytes_eq_of_leadByte_ne_zero hu h1 fits (ne_zero_of_tag_le (by omega) tag_le)
  obtain ⟨-, le_leadMax⟩ := leadByte_bounds_of_decInRange hu
  exact absurd (Tier.leadMax_lt_tag hm) (BitVec.not_lt.mpr (BitVec.le_trans tag_le le_leadMax))

/-- A success of ENCODE is the packed sequence of the tier in whose range the code point lies (rule R100). -/
theorem channelEncode_success {cp : CodePoint} {n : Len} {out : Packed} (h : channelEncode cp = ⟨0#2, n, out⟩) :
    ∃ t, encInRange t cp = true ∧ n.toNat = t.bytes ∧ out = BitVec.ofNat 48 (encodeSum t cp.toNat) := by
  by_cases inRange : ∃ t, encInRange t cp = true
  · obtain ⟨t, ht⟩ := inRange
    obtain ⟨-, -, hlen⟩ := t.len_bounds
    rw [channelEncode_of_encInRange ht] at h
    cases h
    exact ⟨t, ht, hlen, rfl⟩
  · rw [channelEncode_of_no_range (by simpa using inRange)] at h
    cases congrArg EncOutputs.status h

/-- Settles O43: an encoding lies in its tier's decoder range (`decInRange_encodeSum`), and no range holds a
truncated value of a range (`no_decInRange_of_properPrefix`), so that DECODE answers its error form in both builds. -/
theorem properPrefixOfACanonicalSequenceIsRejected : Obligations.ProperPrefixOfACanonicalSequenceIsRejected := by
  unfold Obligations.ProperPrefixOfACanonicalSequenceIsRejected
  intro cp s n out m encoded h1 hm
  rw [observeEnc_eq] at encoded
  obtain ⟨t, ht, hlen, rfl⟩ := channelEncode_success (Option.some.inj encoded)
  rw [hlen] at hm ⊢
  rw [observeDec_eq, channelDecode_of_no_range _ (no_decInRange_of_properPrefix (decInRange_encodeSum ht) h1 hm)]
  rfl

end Sys2Proof.Machine
end
